-- ==== Sys2Proof/Word.lean ====
section
/-! DEFINITION. The word types of the HUF core: 00_scope.md R6, R7. -/

namespace Sys2Proof

/-- A CSR value and a memory address: 32-bit unsigned (00_scope R6 `ADDR_W`, `LEN_W`, `CNT_W`; R7). -/
abbrev Word := BitVec 32

/-- A byte of memory, a symbol, an opcode (00_scope R6 `NSYM`; 30_encoding R90). -/
abbrev Byte := BitVec 8

/-- A node index (00_scope R6 `IDX_W`). -/
abbrev NodeIndex := BitVec 9

/-- The byte offset of an access inside the CSR window of 0x80 bytes (10_state R21 `CSR_SPAN`). -/
abbrev CsrOffset := BitVec 7

/-- A bit sequence, first bit first (00_scope R8); `true` is the bit 1. -/
abbrev Bits := List Bool

end Sys2Proof
end

