-- ==== Sys2Proof/Syntax.lean ====
section
/-! DEFINITION. The command set (30_encoding.md R91), the CSR names (10_state.md R21) and the host's moves
(70_reset_and_hazards.md R272, in the notation of 30_encoding.md R100 and R101). -/

namespace Sys2Proof

/-- The eleven commands, one constructor per row of opcode_table.json (30_encoding R91). A command has no operand
field: its operands are CSRs and tables (30_encoding R90, R93). -/
inductive Instr where
  | compress
  | decompress
  | count
  | build
  | codegen
  | serialize
  | deserialize
  | encode
  | decode
  | packbits
  | unpackbits
deriving DecidableEq, Repr

/-- The named CSRs (10_state R21). `codeW k` is `CODE_Wk`. -/
inductive Csr where
  | id
  | ctrl
  | cmd
  | status
  | errcode
  | errpos
  | srcAddr
  | srcLen
  | dstAddr
  | dstCap
  | outLen
  | pad
  | distinct
  | freqSel
  | freqVal
  | nodeCount
  | root
  | nodeSel
  | nodeInfo
  | nodeWeight
  | nodeChild
  | codeSel
  | codeInfo
  | codeW (k : Fin 8)
deriving DecidableEq, Repr

/-- The width of a host access to the CSR window; only `word` has a meaning (10_state R21). -/
inductive AccessWidth where
  | byte
  | half
  | word
deriving DecidableEq, Repr

/-- One move of the host, or of the platform's reset input. -/
inductive HostOp where
  /-- A read of the CSR window (70_reset R272); `csrr` when `width` is `word`. -/
  | csrRead (width : AccessWidth) (offset : CsrOffset)
  /-- A write to the CSR window (70_reset R272); `csrw` when `width` is `word`. A `CMD` write and a soft reset are
  such writes. -/
  | csrWrite (width : AccessWidth) (offset : CsrOffset) (data : Word)
  /-- `csrw dst, [src]`: the value the last `csrr src` returned is written to `dst` (30_encoding R100). -/
  | csrWriteFrom (dst src : Csr)
  /-- `poll csr, mask, value`: `csrr csr` until the value masked equals `value` (30_encoding R100). -/
  | poll (csr : Csr) (mask value : Word)
  /-- `if (csr & mask) = value:` whose indented lines are the next `body` moves (30_encoding R100). -/
  | branch (csr : Csr) (mask value : Word) (body : Nat)
  /-- A host read of one byte of memory (70_reset R272). -/
  | memRead (addr : Word)
  /-- A host write of one byte of memory (70_reset R272). -/
  | memWrite (addr : Word) (data : Byte)
  /-- The platform asserts its reset input (70_reset R260 (a)). -/
  | hardReset
deriving DecidableEq, Repr

/-- A host program: its moves in order (30_encoding R100). -/
abbrev HostProgram := List HostOp

end Sys2Proof
end

