-- ==== Sys2Proof/WellFormed.lean ====
section
/-! DEFINITION. Which commands, host moves and host programs are well formed. -/

namespace Sys2Proof

/-- A command has no operand field, so every one is well formed (30_encoding R90, R103). -/
def Instr.wf : Instr → Bool
  | .compress => true
  | .decompress => true
  | .count => true
  | .build => true
  | .codegen => true
  | .serialize => true
  | .deserialize => true
  | .encode => true
  | .decode => true
  | .packbits => true
  | .unpackbits => true

/-- "The host reaches them only by aligned 32-bit reads and writes" (10_state R21). -/
def csrAccessOk (width : AccessWidth) (offset : CsrOffset) : Bool :=
  width == .word && offset.toNat % 4 == 0

/-- A move is well formed when its CSR access is (10_state R21). -/
def HostOp.wf : HostOp → Bool
  | .csrRead width offset => csrAccessOk width offset
  | .csrWrite width offset _ => csrAccessOk width offset
  | .csrWriteFrom _ _ => true
  | .poll _ _ _ => true
  | .branch _ _ _ _ => true
  | .memRead _ => true
  | .memWrite _ _ => true
  | .hardReset => true

/-- The lines a branch guards are lines of the program (30_encoding R100). -/
def HostOp.bodyFits (rest : Nat) : HostOp → Bool
  | .branch _ _ _ body => decide (body ≤ rest)
  | _ => true

/-- A host program is well formed when each move is and each branch's body lies in it. -/
def HostProgram.wf : HostProgram → Bool
  | [] => true
  | op :: rest => op.wf && op.bodyFits rest.length && HostProgram.wf rest

/-- `CSR_BASE` is "a multiple of 4 with `CSR_BASE + 0x7F ≤ 0xFFFFFFFF`" (00_scope R6). -/
def csrBaseOk (base : Word) : Bool :=
  base.toNat % 4 == 0 && decide (base.toNat + 0x7F ≤ 0xFFFFFFFF)

end Sys2Proof
end

