-- ==== Sys2Proof/Decode.lean ====
section
/-! DEFINITION. The decoder and the encoder of the command word (30_encoding.md R90 to R92), and the CSR offsets
(10_state.md R21). -/

namespace Sys2Proof

/-- Why a command word names no command. -/
inductive DecodeError where
  /-- The opcode is reserved (30_encoding R92). -/
  | reservedOpcode (op : Byte)
deriving DecidableEq, Repr

/-- The opcode map of 30_encoding R91. -/
def opcodeTable : List (Byte × Instr) :=
  [(0x01#8, .compress), (0x02#8, .decompress), (0x03#8, .count), (0x04#8, .build), (0x05#8, .codegen),
   (0x06#8, .serialize), (0x07#8, .deserialize), (0x08#8, .encode), (0x09#8, .decode), (0x0A#8, .packbits),
   (0x0B#8, .unpackbits)]

/-- The field `OP`, bits 7:0 of a command word (30_encoding R90). -/
def opField (w : Word) : Byte := w.extractLsb' 0 8

/-- The command an opcode selects, or the rejection of a reserved one (30_encoding R91, R92). -/
def decodeOp (op : Byte) : Except DecodeError Instr :=
  match opcodeTable.find? (fun row => row.1 == op) with
  | some row => .ok row.2
  | none => .error (.reservedOpcode op)

/-- "A decoder matches `CMD[7:0]` against this table with mask 0x000000FF" (30_encoding R91). -/
def decode (w : Word) : Except DecodeError Instr := decodeOp (opField w)

/-- The opcode of a command (30_encoding R91). -/
def opcodeOf : Instr → Byte
  | .compress => 0x01#8
  | .decompress => 0x02#8
  | .count => 0x03#8
  | .build => 0x04#8
  | .codegen => 0x05#8
  | .serialize => 0x06#8
  | .deserialize => 0x07#8
  | .encode => 0x08#8
  | .decode => 0x09#8
  | .packbits => 0x0A#8
  | .unpackbits => 0x0B#8

/-- The command word of a command; bits 31:8 are 0, as "software should write" (30_encoding R90). -/
def encode (i : Instr) : Word := (opcodeOf i).setWidth 32

/-- The command word numbered as opcode_table.json numbers it: bits at and above `nbits` are 0. -/
def tableWord (nbits w : Nat) : Word := BitVec.ofNat 32 (w % 2 ^ nbits)

/-- The instruction this decoder reads from an opcode-table word. -/
def decodeTableWord (nbits w : Nat) : Option Instr := (decode (tableWord nbits w)).toOption

/-- The offset of a CSR (10_state R21). -/
def Csr.offset : Csr → CsrOffset
  | .id => 0x00#7
  | .ctrl => 0x04#7
  | .cmd => 0x08#7
  | .status => 0x0C#7
  | .errcode => 0x10#7
  | .errpos => 0x14#7
  | .srcAddr => 0x18#7
  | .srcLen => 0x1C#7
  | .dstAddr => 0x20#7
  | .dstCap => 0x24#7
  | .outLen => 0x28#7
  | .pad => 0x2C#7
  | .distinct => 0x30#7
  | .freqSel => 0x34#7
  | .freqVal => 0x38#7
  | .nodeCount => 0x3C#7
  | .root => 0x40#7
  | .nodeSel => 0x44#7
  | .nodeInfo => 0x48#7
  | .nodeWeight => 0x4C#7
  | .nodeChild => 0x50#7
  | .codeSel => 0x54#7
  | .codeInfo => 0x58#7
  | .codeW k => BitVec.ofNat 7 (0x5C + 4 * k.val)

/-- The named CSRs in the order of their offsets (10_state R21). -/
def csrMap : List Csr :=
  [.id, .ctrl, .cmd, .status, .errcode, .errpos, .srcAddr, .srcLen, .dstAddr, .dstCap, .outLen, .pad, .distinct,
   .freqSel, .freqVal, .nodeCount, .root, .nodeSel, .nodeInfo, .nodeWeight, .nodeChild, .codeSel, .codeInfo,
   .codeW 0, .codeW 1, .codeW 2, .codeW 3, .codeW 4, .codeW 5, .codeW 6, .codeW 7]

/-- The CSR at an aligned offset; none at the reserved offset 0x7C (10_state R21). -/
def Csr.ofOffset (offset : CsrOffset) : Option Csr := csrMap.find? (fun c => c.offset == offset)

/-- One transaction on the host's register bus (30_encoding R100). -/
structure BusTransaction where
  write : Bool
  address : Nat
  data : Word
deriving DecidableEq, Repr

/-- `csrw NAME, v`: "write, address `CSR_BASE + offset(NAME)`, data `v`"; `csrr NAME`: "read, address
`CSR_BASE + offset(NAME)`"; `csrw NAME, [NAME2]`: "as `csrw`", with the value the last `csrr NAME2` returned, here
`lastValue` (30_encoding R100). A read carries no data. -/
def HostOp.transaction (csrBase : Word) (lastValue : Csr → Option Word) : HostOp → Option BusTransaction
  | .csrRead _ offset => some ⟨false, csrBase.toNat + offset.toNat, 0⟩
  | .csrWrite _ offset data => some ⟨true, csrBase.toNat + offset.toNat, data⟩
  | .csrWriteFrom dst src =>
    (lastValue src).map (fun v => ⟨true, csrBase.toNat + dst.offset.toNat, v⟩)
  | .poll c _ _ => some ⟨false, csrBase.toNat + c.offset.toNat, 0⟩
  | .branch _ _ _ _ => none
  | .memRead _ => none
  | .memWrite _ _ => none
  | .hardReset => none

/-- `csrr NAME` (30_encoding R100). -/
def csrr (c : Csr) : HostOp := .csrRead .word c.offset

/-- `csrw NAME, v` (30_encoding R100). -/
def csrw (c : Csr) (v : Word) : HostOp := .csrWrite .word c.offset v

/-- `run OP`: `csrw CMD, OP` then `poll STATUS, 0x1, 0x0` (30_encoding R101). -/
def hostRun (op : Word) : HostProgram := [csrw .cmd op, .poll .status 0x1#32 0x0#32]

/-- `clrdone`: `csrw STATUS, 0x2` (30_encoding R101). -/
def hostClrdone : HostProgram := [csrw .status 0x2#32]

/-- `reset`: `csrw CTRL, 0x2` (30_encoding R101). -/
def hostReset : HostProgram := [csrw .ctrl 0x2#32]

end Sys2Proof
end

