-- ==== Sys2Proof/Config.lean ====
section
/-! DEFINITION. The parameters of the HUF core (00_scope.md R6) and the free values (93_implementation_defined.md U6, U7). -/

namespace Sys2Proof.Config

/-- `ID_VALUE` (00_scope R6, 10_state R22). -/
def idValue : Word := 0x48554631#32

/-- `MAX_NODES` (00_scope R6, 10_state R51). -/
def maxNodes : Nat := 511

/-- `CSR_SPAN` in bytes (00_scope R6, 10_state R21). -/
def csrSpan : Nat := 0x80

/-- The number of byte addresses of `Mem` (20_memory R70). -/
def addressSpace : Nat := 4294967296

/-- What an address that `Mem` does not list reads as. DESIGN CHOICE, log entry 1: the spec leaves the launch
contents of `Mem` to the platform (93 U12). -/
def unlistedByte : Byte := 0#8

/-- `CSR_BASE` in the reset state. DESIGN CHOICE, log entry 2: the spec leaves it OPEN (92 D29). -/
def resetCsrBase : Word := 0x40000000#32

/-- The free byte of the `n`-th draw: a destination byte after a content error or an abort (20_memory R75, 93 U6).
No body: nothing can prove a value of it (log entry 4). -/
opaque freeByte : Nat → Byte

/-- The free word of the `n`-th draw: a host read while `BUSY` = 1 of a register that R47 leaves open
(10_state R47, 93 U7). No body (log entry 4). -/
opaque freeWord : Nat → Word

end Sys2Proof.Config
end

