-- ==== Sys2Proof/Machine/State.lean ====
section
/-! DEFINITION. The state of the HUF core and of its surroundings (10_state.md R20, R50 to R56; 00_scope.md R6). -/

namespace Sys2Proof.Machine

/-- `Mem` (20_memory R70) as the list of its cells that differ from `Config.unlistedByte`, addresses rising. -/
abbrev Memory := List Host.Cell

/-- A valid slot of the node arena (10_state R51). -/
inductive Node where
  | leaf (sym : Byte) (weight : Word)
  | internal (weight : Word) (left right : NodeIndex)
deriving DecidableEq, Repr

/-- `FREQ[0..255]` (10_state R50). -/
abbrev FreqTable := Vector Word 256

/-- One entry of the code table (10_state R52): `none` is `(0, 0, ⟨⟩)`, `some code` is `(1, |code|, code)`. The
rule says `|code| = len`, so `len` is not stored a second time. -/
abbrev CodeEntry := Option Bits

/-- `CT[0..255]` (10_state R52). -/
abbrev CodeTable := Vector CodeEntry 256

/-- A range of memory addresses, from `base` to `base + len - 1` (20_memory R71). -/
structure Region where
  base : Nat
  len : Nat
deriving DecidableEq, Repr

/-- The platform's parameters: `CSR_BASE` (00_scope R6), `PLATFORM_COHERENT` (20_memory R83) and the addresses
on which an access can fail (20_memory R85, 93 U9). No step writes them. No rule gives a command another effect where
`PLATFORM_COHERENT` is false: the host then owes the platform's maintenance, which a host memory move stands for as well
(93 U10; log entry 6). -/
structure Platform where
  csrBase : Word
  coherent : Bool
  failing : List Region
deriving DecidableEq, Repr

/-- What a host read returned (70_reset R272 "the core gives back"). -/
inductive ReadEvent where
  | csr (offset : CsrOffset) (value : Word)
  | mem (addr : Word) (value : Byte)
deriving DecidableEq, Repr

/-- The two agents (00_scope R5). -/
inductive Agent where
  | host
  | core
deriving DecidableEq, Repr

/-- The whole state. The fields from `ie` to `snap` are the core's (10_state R20); `mem` is the platform's
(20_memory R70); `platform` holds parameters; the last four are the model's own (log entries 3 and 4). -/
structure State where
  /-- `CTRL.IE` (R23). -/
  ie : Bool
  /-- `STATUS.BUSY` (R25). -/
  busy : Bool
  /-- `STATUS.DONE` (R25). -/
  done : Bool
  /-- `LAST_OP` (R24). -/
  lastOp : Byte
  /-- `ERRCODE` (R26). -/
  errCode : Byte
  /-- `ERRPOS` (R27). -/
  errPos : Word
  /-- `SRC_ADDR` (R28). -/
  srcAddr : Word
  /-- `SRC_LEN` (R29). -/
  srcLen : Word
  /-- `DST_ADDR` (R30). -/
  dstAddr : Word
  /-- `DST_CAP` (R31). -/
  dstCap : Word
  /-- `OUT_LEN` (R32). -/
  outLen : Word
  /-- `PAD` (R33). -/
  pad : Byte
  /-- `FREQ_SEL` (R35). -/
  freqSel : Byte
  /-- `NODE_SEL` (R39). -/
  nodeSel : NodeIndex
  /-- `CODE_SEL` (R43). -/
  codeSel : Byte
  /-- `FREQ` (R50). -/
  freq : FreqTable
  /-- `NODE[0]` to `NODE[NODE_COUNT-1]` (R51); `NODE_COUNT` is the length. -/
  nodes : List Node
  /-- `ROOT` (R51). -/
  root : NodeIndex
  /-- `CT` (R52). -/
  ct : CodeTable
  /-- `CT_VALID` (R52). -/
  ctValid : Bool
  /-- `CUR_OP` (R54). -/
  curOp : Option Byte
  /-- `SNAP` (R54). -/
  snap : Option (List Byte)
  /-- `Mem` (20_memory R70). -/
  mem : Memory
  /-- The platform's parameters. -/
  platform : Platform
  /-- The host's moves still to come (log entry 3). -/
  program : HostProgram
  /-- Which agent moves next (log entry 3). -/
  agenda : List Agent
  /-- What the host's reads returned, newest first (log entry 3). -/
  readLog : List ReadEvent
  /-- How many free values were drawn (log entry 4). -/
  draws : Nat
deriving DecidableEq, Repr

/-- Why the machine stops with a fault. -/
inductive Fault where
  /-- `HAZARD` (70_reset R265, 93 U8): the host wrote a byte of an active region, or read a byte of the active
  destination region, while `BUSY` = 1. Raised by host memory moves. Safe: the spec names this fault. -/
  | hazard (addr : Word)
  /-- The node arena breaks 10_state R51, in a state no run reaches. Raised by CODEGEN, SERIALIZE, DECODE and
  the two sequencers. Safe: the spec says every rule that writes the arena keeps R51 (log entry 5). -/
  | brokenArena
deriving DecidableEq, Repr

/-- Why a step has no meaning. -/
inductive Refusal where
  /-- The instruction has no meaning in this model yet. No arm of `exec` answers it. Safe. -/
  | notModelled (mnemonic : String)
  /-- A CSR access that is not an aligned 32-bit one (10_state R21, 93 U4). Raised by host moves. Safe: the spec
  says a model refuses it. -/
  | csrAccess
  /-- A command whose region covers the CSR window (20_memory R70, 93 U5). Raised by commands. Safe: the spec says
  a model refuses it. -/
  | regionCoversCsrWindow
  /-- A command whose region holds an address that can fail (20_memory R85, 93 U9). Raised by commands. Safe: the
  spec says a model refuses it. -/
  | memoryCanFail
  /-- `BUSY` = 1 without an accepted command, in a state no run reaches. Raised by the core's step. Safe. -/
  | noCommandInFlight
  /-- The host program uses the value of a read it never made (30_encoding R100). Raised by host moves. Safe. -/
  | valueNeverRead
deriving DecidableEq, Repr

/-- What a step answers. -/
abbrev Result := Host.Outcome State Fault Refusal

/-- The platform of the reset state: `PLATFORM_COHERENT` true and no failing memory are the spec's (20_memory R83,
R85); `CSR_BASE` is log entry 2. -/
def Platform.reset : Platform := { csrBase := Config.resetCsrBase, coherent := true, failing := [] }

/-- The machine right after reset (10_state R56), no host move pending. -/
def State.reset : State where
  ie := false
  busy := false
  done := false
  lastOp := 0
  errCode := 0
  errPos := 0
  srcAddr := 0
  srcLen := 0
  dstAddr := 0
  dstCap := 0
  outLen := 0
  pad := 0
  freqSel := 0
  nodeSel := 0
  codeSel := 0
  freq := Vector.replicate 256 0
  nodes := []
  root := 0
  ct := Vector.replicate 256 none
  ctValid := false
  curOp := none
  snap := none
  mem := []
  platform := Platform.reset
  program := []
  agenda := []
  readLog := []
  draws := 0

end Sys2Proof.Machine
end

