-- ==== Sys2Proof/Machine/Flags.lean ====
section
/-! DEFINITION. The error codes (60_exceptions.md R220), the STATUS bits (10_state.md R25) and the interrupt line
(60_exceptions.md R227). -/

namespace Sys2Proof.Machine

/-- The errors of 60_exceptions R220. -/
inductive ErrorCode where
  | badCmd
  | rangeSrc
  | rangeDst
  | overlap
  | dstOverflow
  | emptyFreq
  | noTree
  | dupSymbol
  | noCode
  | badBit
  | noSep
  | treeUtf8
  | treeExhausted
  | treeMarker
  | treeTrailing
  | treeOverflow
  | padRange
  | walkNoChild
  | walkIncomplete
deriving DecidableEq, Repr

/-- The value `ERRCODE` takes (60_exceptions R220). -/
def ErrorCode.value : ErrorCode → Byte
  | .badCmd => 0x01#8
  | .rangeSrc => 0x02#8
  | .rangeDst => 0x03#8
  | .overlap => 0x04#8
  | .dstOverflow => 0x05#8
  | .emptyFreq => 0x10#8
  | .noTree => 0x11#8
  | .dupSymbol => 0x12#8
  | .noCode => 0x13#8
  | .badBit => 0x14#8
  | .noSep => 0x20#8
  | .treeUtf8 => 0x21#8
  | .treeExhausted => 0x22#8
  | .treeMarker => 0x23#8
  | .treeTrailing => 0x24#8
  | .treeOverflow => 0x25#8
  | .padRange => 0x26#8
  | .walkNoChild => 0x27#8
  | .walkIncomplete => 0x28#8

/-- The classes of 60_exceptions R220 and R221: the source's three, and the two that belong to no source class. -/
inductive ErrorClass where
  | interface
  | capacity
  | inputError
  | malformedInput
  | malformedContainer
deriving DecidableEq, Repr

/-- The class of an error of a command; for a reserved opcode there is no command (60_exceptions R220, R221; 90_conflicts
C2: a tree error of DECOMPRESS is malformed-container, one of DESERIALIZE malformed-input). -/
def ErrorCode.errorClass (raisedBy : Option Instr) : ErrorCode → ErrorClass
  | .badCmd => .interface
  | .rangeSrc => .interface
  | .rangeDst => .interface
  | .overlap => .interface
  | .dstOverflow => .capacity
  | .emptyFreq => .inputError
  | .noTree => .inputError
  | .dupSymbol => .inputError
  | .noCode => .inputError
  | .badBit => .inputError
  | .noSep => .malformedContainer
  | .treeUtf8 => if raisedBy = some .decompress then .malformedContainer else .malformedInput
  | .treeExhausted => if raisedBy = some .decompress then .malformedContainer else .malformedInput
  | .treeMarker => if raisedBy = some .decompress then .malformedContainer else .malformedInput
  | .treeTrailing => if raisedBy = some .decompress then .malformedContainer else .malformedInput
  | .treeOverflow => if raisedBy = some .decompress then .malformedContainer else .malformedInput
  | .padRange => if raisedBy = some .decompress then .malformedContainer else .inputError
  | .walkNoChild => .malformedContainer
  | .walkIncomplete => .malformedContainer

/-- `NODE_COUNT` (10_state R51). -/
def State.nodeCount (s : State) : Nat := s.nodes.length

/-- `STATUS.ERR` = (`ERRCODE` ≠ 0) (10_state R25). -/
def State.err (s : State) : Bool := s.errCode != 0

/-- `STATUS.TREE_VALID` = (`NODE_COUNT` ≠ 0) (10_state R25). -/
def State.treeValid (s : State) : Bool := s.nodeCount != 0

/-- `IRQ = CTRL.IE ∧ STATUS.DONE` (60_exceptions R227). -/
def State.irq (s : State) : Bool := s.ie && s.done

/-- A one-bit field at bit `i` of a CSR word. -/
def bitField (b : Bool) (i : Nat) : Word := if b then BitVec.ofNat 32 (2 ^ i) else 0

/-- The word a read of `STATUS` returns while `BUSY` = 0 (10_state R25). -/
def State.statusWord (s : State) : Word :=
  bitField s.busy 0 ||| bitField s.done 1 ||| bitField s.err 2 ||| bitField s.treeValid 3 ||| bitField s.ctValid 4

/-- The word a read of `STATUS` returns while `BUSY` = 1: `BUSY` = 1, `DONE` = 0, `ERR` = 0, `TREE_VALID` and
`CT_VALID` bits 3 and 4 of the free word drawn (10_state R47). -/
def busyStatusWord (drawn : Word) : Word := 0x1#32 ||| (drawn &&& 0x18#32)

end Sys2Proof.Machine
end

