-- ==== Sys2Proof/Machine/Operands.lean ====
section
/-! DEFINITION. The operands of the commands: regions, snapshot, write sets and start checks (30_encoding.md R93;
20_memory.md R71 to R73, R85; 60_exceptions.md R222). -/

namespace Sys2Proof.Machine

/-- A row of the table of 30_encoding R93: does the command read the source region, write the destination region,
and which of `FREQ`, the tree, the code table and `PAD` are in its write set. -/
structure CmdInfo where
  readsSrc : Bool
  writesDst : Bool
  writesFreq : Bool
  writesTree : Bool
  writesCt : Bool
  writesPad : Bool
deriving DecidableEq, Repr

/-- The table of 30_encoding R93. -/
def cmdInfo : Instr → CmdInfo
  | .compress => ⟨true, true, true, true, true, true⟩
  | .decompress => ⟨true, true, false, true, true, true⟩
  | .count => ⟨true, false, true, false, false, false⟩
  | .build => ⟨false, false, false, true, true, false⟩
  | .codegen => ⟨false, false, false, false, true, false⟩
  | .serialize => ⟨false, true, false, false, false, false⟩
  | .deserialize => ⟨true, false, false, true, true, false⟩
  | .encode => ⟨true, true, false, false, false, true⟩
  | .decode => ⟨true, true, false, false, false, false⟩
  | .packbits => ⟨true, true, false, false, false, true⟩
  | .unpackbits => ⟨true, true, false, false, false, false⟩

/-- "computed without wrap-around" (20_memory R71). -/
def Region.contains (r : Region) (a : Nat) : Bool := decide (r.base ≤ a ∧ a < r.base + r.len)

/-- The region ends at or below 2^32 (20_memory R71). -/
def Region.inRange (r : Region) : Bool := decide (r.base + r.len ≤ Config.addressSpace)

/-- Both regions are non-empty and they intersect (20_memory R72). -/
def Region.overlaps (r q : Region) : Bool :=
  decide (r.len ≠ 0 ∧ q.len ≠ 0 ∧ r.base < q.base + q.len ∧ q.base < r.base + r.len)

/-- `[SRC_ADDR, SRC_ADDR + SRC_LEN)` (20_memory R71). -/
def State.srcRegion (s : State) : Region := ⟨s.srcAddr.toNat, s.srcLen.toNat⟩

/-- `[DST_ADDR, DST_ADDR + DST_CAP)` (20_memory R71). -/
def State.dstRegion (s : State) : Region := ⟨s.dstAddr.toNat, s.dstCap.toNat⟩

/-- `[CSR_BASE, CSR_BASE + 0x80)` (10_state R21). -/
def State.csrWindow (s : State) : Region := ⟨s.platform.csrBase.toNat, Config.csrSpan⟩

/-- The start checks in their order (60_exceptions R222; 30_encoding R93). -/
def startCheck (c : CmdInfo) (s : State) : Option ErrorCode :=
  if c.readsSrc && !s.srcRegion.inRange then some .rangeSrc
  else if c.writesDst && !s.dstRegion.inRange then some .rangeDst
  else if c.readsSrc && c.writesDst && s.srcRegion.overlaps s.dstRegion then some .overlap
  else none

/-- The active regions of a command (20_memory R71). -/
def activeRegions (c : CmdInfo) (s : State) : List Region :=
  (if c.readsSrc then [s.srcRegion] else []) ++ (if c.writesDst then [s.dstRegion] else [])

/-- The commands a model refuses on a platform: a region that covers the CSR window (93 U5), a region with an
address that can fail (93 U9). Which of the two names a command that both concern gets is the model's choice (log
entry 15). -/
def platformCheck (c : CmdInfo) (s : State) : Option Refusal :=
  if (activeRegions c s).any (fun r => r.overlaps s.csrWindow) then some .regionCoversCsrWindow
  else if (activeRegions c s).any (fun r => s.platform.failing.any (fun q => r.overlaps q)) then some .memoryCanFail
  else none

/-- `sat32(v) = min(v, 0xFFFFFFFF)` (00_scope R9). -/
def sat32 (v : Nat) : Nat := min v 0xFFFFFFFF

/-- A 256-entry table given by its entries. -/
def table {α : Type} (f : Byte → α) : Vector α 256 :=
  ⟨⟨(List.range 256).map (fun n => f (BitVec.ofNat 8 n))⟩, by simp⟩

/-- The entry of a 256-entry table for a symbol. -/
def entry {α : Type} (t : Vector α 256) (sym : Byte) : α := t[sym.toNat]'sym.isLt

/-- The symbols 0 to 255 in ascending order. -/
def symbols : List Byte := (List.range 256).map (BitVec.ofNat 8)

/-- The number a bit sequence writes, first bit most significant (20_memory R77). -/
def natOfBits (bits : Bits) : Nat := bits.foldl (fun acc b => 2 * acc + b.toNat) 0

/-- The bits of a byte, bit 7 first (20_memory R77; 43_bitstream R171). -/
def byteBits (b : Byte) : Bits :=
  [b.getLsbD 7, b.getLsbD 6, b.getLsbD 5, b.getLsbD 4, b.getLsbD 3, b.getLsbD 2, b.getLsbD 1, b.getLsbD 0]

end Sys2Proof.Machine
end

