-- ==== Sys2Proof/Machine/Ops.lean ====
section
/-! DEFINITION. The named operations over memory, tables and registers; completing a command with success or with an
error (30_encoding.md R105; 60_exceptions.md R224, R225); reset (70_reset_and_hazards.md R261). -/

namespace Sys2Proof.Machine

/-! ### Memory (20_memory R70, R79) -/

/-- `MemRead(a, 1)` (00_scope R10). -/
def Memory.read : Memory → Nat → Byte
  | [], _ => Config.unlistedByte
  | (k, v) :: rest, a => if a = k then v else Memory.read rest a

/-- Puts a cell in its place by address, in the place of a cell of that address. -/
def Memory.insert : Memory → Nat → Byte → Memory
  | [], a, v => [(a, v)]
  | (k, w) :: rest, a, v =>
    if a < k then (a, v) :: (k, w) :: rest
    else if a = k then (a, v) :: rest
    else (k, w) :: Memory.insert rest a v

/-- `MemWrite(a, 1, v)` (00_scope R10), keeping the canonical form: a byte equal to what an unlisted address reads as
is not listed. -/
def Memory.write (m : Memory) (a : Nat) (v : Byte) : Memory :=
  if v = Config.unlistedByte then m.filter (fun c => c.1 != a) else Memory.insert m a v

/-- The canonical form: addresses strictly rising and below 2^32, no listed byte equal to what an unlisted address
reads as. -/
abbrev Memory.wf (m : Memory) : Prop :=
  m.Pairwise (fun c d => c.1 < d.1) ∧ ∀ c ∈ m, c.2 ≠ Config.unlistedByte ∧ c.1 < Config.addressSpace

/-- The `n` bytes at ascending addresses from `a` (20_memory R76). -/
def Memory.readRange (m : Memory) (a : Nat) : Nat → List Byte
  | 0 => []
  | n + 1 => Memory.read m a :: Memory.readRange m (a + 1) n

/-- Stores a byte sequence at ascending addresses, element 0 lowest (20_memory R76). -/
def Memory.writeRange (m : Memory) (a : Nat) : List Byte → Memory
  | [] => m
  | b :: bytes => Memory.writeRange (Memory.write m a b) (a + 1) bytes

/-- Stores a list of cells. -/
def Memory.writeCells (m : Memory) (cells : List Host.Cell) : Memory :=
  cells.foldl (fun m c => Memory.write m c.1 c.2) m

/-- `S`, the bytes of the source region as they stand (20_memory R73), as far as the region lies below 2^32; a
command whose source region does not is rejected by its start check before `S` is used. -/
def State.source (s : State) : List Byte :=
  Memory.readRange s.mem s.srcAddr.toNat (min s.srcLen.toNat (Config.addressSpace - s.srcAddr.toNat))

/-! ### Table updates (10_state R53) -/

/-- Writes `FREQ`. -/
def State.setFreq (s : State) (f : FreqTable) : State := { s with freq := f }

/-- Writes `NODE`, `NODE_COUNT` and `ROOT`. -/
def State.setTree (s : State) (nodes : List Node) (root : NodeIndex) : State := { s with nodes := nodes, root := root }

/-- Writes `CT` and sets `CT_VALID` (41_codegen R130). -/
def State.setCT (s : State) (t : CodeTable) : State := { s with ct := t, ctValid := true }

/-- Writes `PAD`. -/
def State.setPad (s : State) (p : Byte) : State := { s with pad := p }

/-- `ClearFreq` (10_state R53). -/
def State.clearFreq (s : State) : State := { s with freq := Vector.replicate 256 0 }

/-- `ClearTree` (10_state R53). -/
def State.clearTree (s : State) : State := { s with nodes := [], root := 0 }

/-- `ClearCT` (10_state R53). -/
def State.clearCT (s : State) : State := { s with ct := Vector.replicate 256 none, ctValid := false }

/-! ### Running a command's pseudocode (00_scope R10, R11) -/

/-- What ends a command's pseudocode early: `raise Error(code, pos)` (00_scope R10), or an arena outside 10_state
R51 (log entry 5). -/
inductive Raise where
  | error (code : ErrorCode) (pos : Nat)
  | brokenArena
deriving DecidableEq, Repr

/-- The value of a piece of pseudocode, or how it ended. -/
abbrev Run (α : Type) := Except Raise α

/-- `raise Error(code, pos)` (00_scope R10). -/
def raise {α : Type} (code : ErrorCode) (pos : Nat) : Run α := .error (.error code pos)

/-- "Every command whose output `out` would be longer than `DST_CAP` bytes ... raises
`Error(DST_OVERFLOW, sat32(|out|))`" (30_encoding R106); otherwise the pseudocode ends with its writes `s` and `out`. -/
def boundedOutput (cap : Word) (s : State) (out : List Byte) : Run (State × List Byte) :=
  if out.length > cap.toNat then raise .dstOverflow (sat32 out.length) else .ok (s, out)

/-! ### Completion: the one shared operation (30_encoding R105) -/

/-- The completion record: `OUT_LEN`, `ERRCODE`, `ERRPOS`, `BUSY` = 0, `DONE` = 1; `CUR_OP` and `SNAP` are
discarded (30_encoding R105; 60_exceptions R224 (c), R225). -/
def State.finish (s : State) (outLen : Nat) (errCode : Byte) (errPos : Nat) : State :=
  { s with
    outLen := BitVec.ofNat 32 outLen
    errCode := errCode
    errPos := BitVec.ofNat 32 errPos
    busy := false
    done := true
    curOp := none
    snap := none }

/-- "any value": each byte of the destination region becomes a free draw (20_memory R75, 93 U6). An
address at or above 2^32 does not exist (20_memory R70); a region reaches one only for an aborted command that its
start check would have rejected (log entry 7). -/
def freeDstCells (s : State) : List Host.Cell :=
  ((List.range s.dstCap.toNat).map
      (fun i => ((s.dstAddr.toNat + i, Config.freeByte (s.draws + i)) : Host.Cell))).filter
    (fun cell => decide (cell.1 < Config.addressSpace))

/-- Frees the destination bytes of a command that writes a destination region (20_memory R75). -/
def State.freeDst (s : State) (c : CmdInfo) : State :=
  if c.writesDst then
    { s with mem := Memory.writeCells s.mem (freeDstCells s), draws := s.draws + s.dstCap.toNat }
  else s

/-- Clears each item of the write set (60_exceptions R224 (b)). -/
def State.clearWriteSet (s : State) (c : CmdInfo) : State :=
  { s with
    freq := if c.writesFreq then Vector.replicate 256 0 else s.freq
    nodes := if c.writesTree then [] else s.nodes
    root := if c.writesTree then 0 else s.root
    ct := if c.writesCt then Vector.replicate 256 none else s.ct
    ctValid := if c.writesCt then false else s.ctValid
    pad := if c.writesPad then 0 else s.pad }

/-- Completion with a start-check error: no table, no `PAD` and no memory byte changes (60_exceptions R224 (a), (c)). -/
def State.completeStartError (s : State) (code : ErrorCode) : State := s.finish 0 code.value 0

/-- Completion with any other error (60_exceptions R224 (b), (c)), over the state before the command. -/
def State.completeError (s : State) (c : CmdInfo) (code : ErrorCode) (pos : Nat) : State :=
  ((s.clearWriteSet c).freeDst c).finish 0 code.value pos

/-- Completion with success: `s` holds the pseudocode's writes; the output goes to the destination region
(20_memory R74; 60_exceptions R225). -/
def State.completeOk (s : State) (out : List Byte) : State :=
  { s with mem := Memory.writeRange s.mem s.dstAddr.toNat out }.finish out.length 0 0

/-- What the end of the pseudocode does to the state before the command (30_encoding R105). -/
def completeRun (c : CmdInfo) (s : State) : Run (State × List Byte) → Result
  | .ok (s', out) => .next (s'.completeOk out)
  | .error (.error code pos) => .next (s.completeError c code pos)
  | .error .brokenArena => .fault .brokenArena

/-- The core's completion step (30_encoding R105): the start checks in order, then the platform's refusals, then the
command's pseudocode `body` over `s` and `S`. That a refusal (93 U5, U9) falls here, at the completion step and after
the start checks, and not at acceptance, is the model's choice (log entry 15). -/
def complete (c : CmdInfo) (body : State → List Byte → Run (State × List Byte)) (s : State) : Result :=
  match startCheck c s with
  | some code => .next (s.completeStartError code)
  | none =>
    match platformCheck c s with
    | some refusal => .refused refusal
    | none => completeRun c s (body s (s.snap.getD []))

/-! ### Acceptance (30_encoding R104) and reset (70_reset R261) -/

/-- A `CMD` write of `v` (30_encoding R104; 10_state R46 while `BUSY` = 1). -/
def State.accept (s : State) (v : Word) : State :=
  if s.busy then s
  else
    let s1 : State := { s with lastOp := opField v, done := false, errCode := 0, errPos := 0, outLen := 0 }
    match decode v with
    | .error _ => { s1 with errCode := ErrorCode.badCmd.value, errPos := 0, done := true }
    | .ok _ => { s1 with curOp := some (opField v), snap := some s.source, busy := true }

/-- The command in flight (10_state R54). -/
def State.inFlight (s : State) : Option Instr :=
  if s.busy then s.curOp.bind (fun op => (decodeOp op).toOption) else none

/-- The core's part of the state takes its reset values (10_state R56); memory, the platform and the host are not
reset (10_state R56 "Memory is not reset"). -/
def State.clearCore (s : State) : State :=
  { State.reset with
    mem := s.mem
    platform := s.platform
    program := s.program
    agenda := s.agenda
    readLog := s.readLog
    draws := s.draws }

/-- Reset, hard or soft (70_reset R260, R261): a command in flight is aborted, each byte of its destination region
holding any value. A command that 93 U5 or U9 would refuse at its completion step is aborted like any other: the model's
choice (log entry 15). -/
def State.coreReset (s : State) : State :=
  match s.inFlight with
  | some i => (s.freeDst (cmdInfo i)).clearCore
  | none => s.clearCore

end Sys2Proof.Machine
end

