-- ==== Sys2Proof/Machine/Csr.lean ====
section
/-! DEFINITION. Host reads and writes of the CSRs (10_state.md R21 to R47). -/

namespace Sys2Proof.Machine

/-- `DISTINCT`: the number of symbols present (10_state R34). -/
def State.distinct (s : State) : Nat := symbols.countP (fun sym => entry s.freq sym != 0)

/-- `NODE[NODE_SEL]` when valid (10_state R40 to R42). -/
def State.selectedNode (s : State) : Option Node := s.nodes[s.nodeSel.toNat]?

/-- `NODE_INFO`: bit 9 `VALID`, bit 8 `LEAF`, bits 7:0 `SYM` (10_state R40). -/
def nodeInfoWord : Option Node → Word
  | none => 0
  | some (.leaf sym _) => 0x300#32 ||| sym.setWidth 32
  | some (.internal _ _ _) => 0x200#32

/-- `NODE_WEIGHT` (10_state R41). -/
def nodeWeightWord : Option Node → Word
  | none => 0
  | some (.leaf _ w) => w
  | some (.internal w _ _) => w

/-- `NODE_CHILD`: bits 8:0 `LEFT`, bits 24:16 `RIGHT` (10_state R42). -/
def nodeChildWord : Option Node → Word
  | none => 0
  | some (.leaf _ _) => 0
  | some (.internal _ l r) => l.setWidth 32 ||| (r.setWidth 32 <<< 16)

/-- `CODE_INFO`: bit 8 `PRESENT`, bits 7:0 `LEN` (10_state R44). -/
def codeInfoWord : CodeEntry → Word
  | none => 0
  | some code => 0x100#32 ||| (BitVec.ofNat 8 code.length).setWidth 32

/-- `CODE_Wk`: bit `31 - j` is `code[32k + j]`, 0 past the end (10_state R45). -/
def codeWordK (k : Nat) : CodeEntry → Word
  | none => 0
  | some code => BitVec.ofNat 32 (natOfBits ((List.range 32).map (fun j => code.getD (32 * k + j) false)))

/-- What a read returns while `BUSY` = 0 (10_state R22 to R45). -/
def State.csrValue (s : State) : Csr → Word
  | .id => Config.idValue
  | .ctrl => bitField s.ie 0
  | .cmd => s.lastOp.setWidth 32
  | .status => s.statusWord
  | .errcode => s.errCode.setWidth 32
  | .errpos => s.errPos
  | .srcAddr => s.srcAddr
  | .srcLen => s.srcLen
  | .dstAddr => s.dstAddr
  | .dstCap => s.dstCap
  | .outLen => s.outLen
  | .pad => s.pad.setWidth 32
  | .distinct => BitVec.ofNat 32 s.distinct
  | .freqSel => s.freqSel.setWidth 32
  | .freqVal => entry s.freq s.freqSel
  | .nodeCount => BitVec.ofNat 32 s.nodeCount
  | .root => if s.nodes = [] then 0 else s.root.setWidth 32
  | .nodeSel => s.nodeSel.setWidth 32
  | .nodeInfo => nodeInfoWord s.selectedNode
  | .nodeWeight => nodeWeightWord s.selectedNode
  | .nodeChild => nodeChildWord s.selectedNode
  | .codeSel => s.codeSel.setWidth 32
  | .codeInfo => codeInfoWord (entry s.ct s.codeSel)
  | .codeW k => codeWordK k.val (entry s.ct s.codeSel)

/-- How a read while `BUSY` = 1 gets its value (10_state R47). -/
inductive BusyRead where
  /-- The exact value. -/
  | exact
  /-- `STATUS`: some bits are free. -/
  | status
  /-- 0. -/
  | zero
  /-- Any value. -/
  | anyValue
deriving DecidableEq, Repr

/-- The classes of 10_state R47. -/
def busyRead : Csr → BusyRead
  | .id => .exact
  | .ctrl => .exact
  | .cmd => .exact
  | .srcAddr => .exact
  | .srcLen => .exact
  | .dstAddr => .exact
  | .dstCap => .exact
  | .freqSel => .exact
  | .nodeSel => .exact
  | .codeSel => .exact
  | .status => .status
  | .errcode => .zero
  | .errpos => .zero
  | .outLen => .zero
  | .pad => .anyValue
  | .distinct => .anyValue
  | .freqVal => .anyValue
  | .nodeCount => .anyValue
  | .root => .anyValue
  | .nodeInfo => .anyValue
  | .nodeWeight => .anyValue
  | .nodeChild => .anyValue
  | .codeInfo => .anyValue
  | .codeW _ => .anyValue

/-- What a read of `c` returns, given the free word of the next draw (10_state R22 to R47). -/
def State.readValue (s : State) (c : Csr) (drawn : Word) : Word :=
  if s.busy then
    match busyRead c with
    | .exact => s.csrValue c
    | .status => busyStatusWord drawn
    | .zero => 0
    | .anyValue => drawn
  else s.csrValue c

/-- Does a read of `c` draw a free word (10_state R47, 93 U7)? -/
def State.readDraws (s : State) (c : Csr) : Bool :=
  s.busy && (busyRead c == .status || busyRead c == .anyValue)

/-- A host read of an aligned offset: the value and the state after it. A read changes no spec state (10_state R21);
the reserved offset reads 0. -/
def State.csrRead (s : State) (offset : CsrOffset) : State × Word :=
  match Csr.ofOffset offset with
  | none => ({ s with readLog := .csr offset 0 :: s.readLog }, 0)
  | some c =>
    let v := s.readValue c (Config.freeWord s.draws)
    ({ s with
        readLog := .csr offset v :: s.readLog
        draws := if s.readDraws c then s.draws + 1 else s.draws }, v)

/-- A write to `CTRL`: bit 1 resets and wins, else bit 0 is `IE` (10_state R23). -/
def State.writeCtrl (s : State) (v : Word) : State :=
  if v.getLsbD 1 then s.coreReset else { s with ie := v.getLsbD 0 }

/-- A write to `STATUS`: bit 1 = 1 clears `DONE`, without effect while `BUSY` = 1 (10_state R25). -/
def State.writeStatus (s : State) (v : Word) : State :=
  if v.getLsbD 1 && !s.busy then { s with done := false } else s

/-- A host write of `v` to a CSR (10_state R22 to R46). -/
def State.csrWrite (s : State) (c : Csr) (v : Word) : State :=
  match c with
  | .id => s
  | .ctrl => s.writeCtrl v
  | .cmd => s.accept v
  | .status => s.writeStatus v
  | .errcode => s
  | .errpos => s
  | .srcAddr => if s.busy then s else { s with srcAddr := v }
  | .srcLen => if s.busy then s else { s with srcLen := v }
  | .dstAddr => if s.busy then s else { s with dstAddr := v }
  | .dstCap => if s.busy then s else { s with dstCap := v }
  | .outLen => s
  | .pad => if s.busy then s else { s with pad := v.extractLsb' 0 8 }
  | .distinct => s
  | .freqSel => { s with freqSel := v.extractLsb' 0 8 }
  | .freqVal => s
  | .nodeCount => s
  | .root => s
  | .nodeSel => { s with nodeSel := v.extractLsb' 0 9 }
  | .nodeInfo => s
  | .nodeWeight => s
  | .nodeChild => s
  | .codeSel => { s with codeSel := v.extractLsb' 0 8 }
  | .codeInfo => s
  | .codeW _ => s

/-- A host write to an aligned offset; the reserved offset ignores it (10_state R21). -/
def State.csrWriteAt (s : State) (offset : CsrOffset) (v : Word) : State :=
  match Csr.ofOffset offset with
  | none => s
  | some c => s.csrWrite c v

end Sys2Proof.Machine
end

