-- ==== Sys2Proof/Machine/Codegen.lean ====
section
/-! DEFINITION. The tree in the arena, the code-table generator and the lookup: CODEGEN (41_codegen.md). -/

namespace Sys2Proof.Machine

/-- A subtree of the arena, each node with its arena index: what the recursive functions `Visit` (41_codegen R131)
and `SerNode` (42_serializer R141) traverse. -/
inductive Tree where
  | leaf (index : Nat) (sym : Byte)
  | node (index : Nat) (left right : Tree)
deriving DecidableEq, Repr

/-- The subtree at index `n` of an arena (10_state R51); none where the arena breaks R51. A path of a tree visits a
node once, so `fuel` = the number of nodes suffices. -/
def treeAt (nodes : List Node) : Nat → Nat → Option Tree
  | 0, _ => none
  | fuel + 1, n =>
    match nodes[n]? with
    | none => none
    | some (.leaf sym _) => some (.leaf n sym)
    | some (.internal _ l r) =>
      match treeAt nodes fuel l.toNat, treeAt nodes fuel r.toNat with
      | some tl, some tr => some (.node n tl tr)
      | _, _ => none

/-- The tree of the arena, from its root (10_state R51). -/
def arenaTree (nodes : List Node) (root : NodeIndex) : Option Tree := treeAt nodes nodes.length root.toNat

/-- The arena indices of a tree, in pre-order. -/
def Tree.indices : Tree → List Nat
  | .leaf n _ => [n]
  | .node n l r => n :: (l.indices ++ r.indices)

/-- The leaf symbols with their codes in left-first order: `Visit(n, path)` (41_codegen R131). -/
def Tree.leafCodes : Tree → Bits → List (Byte × Bits)
  | .leaf _ sym, path => [(sym, path)]
  | .node _ l r, path => l.leafCodes (path ++ [false]) ++ r.leafCodes (path ++ [true])

/-- The first symbol that occurs a second time (41_codegen R131). -/
def firstRepeat : List Byte → List (Byte × Bits) → Option Byte
  | _, [] => none
  | seen, (sym, _) :: rest => if sym ∈ seen then some sym else firstRepeat (sym :: seen) rest

/-- The code table whose present entries are the given ones. -/
def tableOfCodes (codes : List (Byte × Bits)) : CodeTable := table (fun sym => codes.lookup sym)

/-- `Codes(NODE, ROOT)` (41_codegen R131). -/
def codes (nodes : List Node) (root : NodeIndex) : Run CodeTable :=
  match arenaTree nodes root with
  | none => .error .brokenArena
  | some t =>
    match firstRepeat [] (t.leafCodes []) with
    | some sym => raise .dupSymbol sym.toNat
    | none => .ok (tableOfCodes (t.leafCodes []))

/-- `Lookup(s)`: the code, or "no code" (41_codegen R132). -/
def lookupCode (t : CodeTable) (sym : Byte) : Option Bits := entry t sym

/-- CODEGEN (41_codegen R130). -/
def codegenBody (s : State) (_S : List Byte) : Run (State × List Byte) :=
  if s.nodes = [] then raise .noTree 0
  else do
    let t ← codes s.nodes s.root
    .ok (s.setCT t, [])

/-- CODEGEN (41_codegen R130). -/
def execCodegen (s : State) : Result := complete (cmdInfo .codegen) codegenBody s

end Sys2Proof.Machine
end

