-- ==== Sys2Proof/Machine/Bitstream.lean ====
section
/-! DEFINITION. The bitstream packer and unpacker, the encoder and the decoder: PACKBITS, UNPACKBITS, ENCODE and
DECODE (43_bitstream.md). -/

namespace Sys2Proof.Machine

/-- `(8 − (|bits| mod 8)) mod 8` (43_bitstream R170). -/
def padCount (bits : Bits) : Nat := (8 - bits.length % 8) % 8

/-- The first `n` bytes of a bit sequence, 8 bits at a time, most significant first (43_bitstream R170). -/
def packBytes : Nat → Bits → List Byte
  | 0, _ => []
  | n + 1, q => BitVec.ofNat 8 (natOfBits (q.take 8)) :: packBytes n (q.drop 8)

/-- `Pack(bits)` (43_bitstream R170). -/
def pack (bits : Bits) : List Byte × Nat :=
  let pad := padCount bits
  let q := bits ++ List.replicate pad false
  (packBytes (q.length / 8) q, pad)

/-- `Unpack(P, pad)` (43_bitstream R171). -/
def unpack (P : List Byte) (pad : Nat) : Run Bits :=
  if pad > 7 ∨ pad > 8 * P.length then raise .padRange 0
  else .ok ((P.flatMap byteBits).take (8 * P.length - pad))

/-- `Walk(bits)` from node `n`, with `j` bits read (43_bitstream R172); a link to no node is outside 10_state R51. -/
def walkFrom (nodes : List Node) (root : Nat) : Nat → Nat → Bits → Run (List Byte)
  | n, j, [] => if n = root then .ok [] else raise .walkIncomplete (sat32 j)
  | n, j, b :: bits =>
    match nodes[n]? with
    | none => .error .brokenArena
    | some (.leaf _ _) => raise .walkNoChild (sat32 j)
    | some (.internal _ l r) =>
      let m := if b then r.toNat else l.toNat
      match nodes[m]? with
      | none => .error .brokenArena
      | some (.leaf sym _) => do
        let out ← walkFrom nodes root root (j + 1) bits
        .ok (sym :: out)
      | some (.internal _ _ _) => walkFrom nodes root m (j + 1) bits

/-- `Walk(bits)` (43_bitstream R172). -/
def walk (nodes : List Node) (root : NodeIndex) (bits : Bits) : Run (List Byte) :=
  walkFrom nodes root.toNat root.toNat 0 bits

/-- The bits of a bit-per-byte sequence from offset `i` (30_encoding R99; 43_bitstream R173). -/
def bitsOfBytes : Nat → List Byte → Run Bits
  | _, [] => .ok []
  | i, b :: bytes =>
    if b.toNat > 1 then raise .badBit i
    else do
      let bits ← bitsOfBytes (i + 1) bytes
      .ok ((b == 1#8) :: bits)

/-- One byte 0x00 or 0x01 per bit (30_encoding R99). -/
def bytesOfBits (bits : Bits) : List Byte := bits.map (fun b => if b then 1#8 else 0#8)

/-- PACKBITS (43_bitstream R173). -/
def packbitsBody (s : State) (S : List Byte) : Run (State × List Byte) := do
  let bits ← bitsOfBytes 0 S
  boundedOutput s.dstCap (s.setPad (BitVec.ofNat 8 (pack bits).2)) (pack bits).1

/-- PACKBITS (43_bitstream R173). -/
def execPackbits (s : State) : Result := complete (cmdInfo .packbits) packbitsBody s

/-- UNPACKBITS (43_bitstream R174). -/
def unpackbitsBody (s : State) (S : List Byte) : Run (State × List Byte) := do
  let bits ← unpack S s.pad.toNat
  boundedOutput s.dstCap s (bytesOfBits bits)

/-- UNPACKBITS (43_bitstream R174). -/
def execUnpackbits (s : State) : Result := complete (cmdInfo .unpackbits) unpackbitsBody s

/-- The codes of the bytes from offset `i`, concatenated (43_bitstream R175). -/
def encodeBits (t : CodeTable) : Nat → List Byte → Run Bits
  | _, [] => .ok []
  | i, b :: bytes =>
    match lookupCode t b with
    | none => raise .noCode i
    | some code => do
      let bits ← encodeBits t (i + 1) bytes
      .ok (code ++ bits)

/-- ENCODE (43_bitstream R175). -/
def encodeBody (s : State) (S : List Byte) : Run (State × List Byte) := do
  let bits ← encodeBits s.ct 0 S
  boundedOutput s.dstCap (s.setPad (BitVec.ofNat 8 (pack bits).2)) (pack bits).1

/-- ENCODE (43_bitstream R175). -/
def execEncode (s : State) : Result := complete (cmdInfo .encode) encodeBody s

/-- DECODE (43_bitstream R176). -/
def decodeBody (s : State) (S : List Byte) : Run (State × List Byte) :=
  if s.nodes = [] then raise .noTree 0
  else do
    let bits ← unpack S s.pad.toNat
    let out ← walk s.nodes s.root bits
    boundedOutput s.dstCap s out

/-- DECODE (43_bitstream R176). -/
def execDecode (s : State) : Result := complete (cmdInfo .decode) decodeBody s

end Sys2Proof.Machine
end

