-- ==== Sys2Proof/Machine/CountBuild.lean ====
section
/-! DEFINITION. The frequency counter and the tree builder: COUNT and BUILD (40_count_build.md). -/

namespace Sys2Proof.Machine

/-- How many elements of `S` are the symbol (40_count_build R110). -/
def occurrences (S : List Byte) (sym : Byte) : Nat := S.countP (fun b => b == sym)

/-- The counts of `S` (40_count_build R110). -/
def countTable (S : List Byte) : FreqTable := table (fun sym => BitVec.ofNat 32 (occurrences S sym))

/-- COUNT (40_count_build R110). -/
def countBody (s : State) (S : List Byte) : Run (State × List Byte) := .ok (s.setFreq (countTable S), [])

/-- COUNT (40_count_build R110). -/
def execCount (s : State) : Result := complete (cmdInfo .count) countBody s

/-- An element of the priority queue: an arena index with its node's weight (40_count_build R112). -/
structure QueueItem where
  weight : Nat
  index : Nat
deriving DecidableEq, Repr

/-- The lexicographic order of `(weight, index)` (40_count_build R112). -/
def QueueItem.before (x y : QueueItem) : Bool :=
  decide (x.weight < y.weight ∨ (x.weight = y.weight ∧ x.index ≤ y.index))

/-- `PqMin(Q)`, the least element of `x :: q` (40_count_build R112). -/
def pqMin (x : QueueItem) : List QueueItem → QueueItem
  | [] => x
  | y :: q => pqMin (if x.before y then x else y) q

/-- The leaves in ascending symbol order (40_count_build R111). -/
def initialLeaves (f : FreqTable) : List Node :=
  symbols.filterMap (fun sym => if entry f sym = 0 then none else some (.leaf sym (entry f sym)))

/-- The weight of a node (10_state R51). -/
def Node.weight : Node → Word
  | .leaf _ w => w
  | .internal w _ _ => w

/-- The priority queue over the leaves, `{0, 1, ..., L-1}` with their weights (40_count_build R111). -/
def initialQueue (leaves : List Node) : List QueueItem :=
  leaves.zipIdx.map (fun p => ⟨p.1.weight.toNat, p.2⟩)

/-- The merge loop of 40_count_build R111: `nodes` is `N[0..k)`, `q` the queue. The first node extracted is the left
child, the second the right child (R112). Each turn takes one element from the queue, so `fuel` = L turns suffice. -/
def mergeLoop : Nat → List Node → List QueueItem → List Node
  | 0, nodes, _ => nodes
  | _ + 1, nodes, [] => nodes
  | _ + 1, nodes, [_] => nodes
  | fuel + 1, nodes, x :: y :: rest =>
    let a := pqMin x (y :: rest)
    match (x :: y :: rest).erase a with
    | [] => nodes
    | z :: zs =>
      let b := pqMin z zs
      let w := a.weight + b.weight
      mergeLoop fuel
        (nodes ++ [.internal (BitVec.ofNat 32 w) (BitVec.ofNat 9 a.index) (BitVec.ofNat 9 b.index)])
        ((z :: zs).erase b ++ [⟨w, nodes.length⟩])

/-- The tree of the counts `f`: the arena and its root, the last node made (40_count_build R111). -/
def buildTree (f : FreqTable) : Run (List Node × NodeIndex) :=
  match initialLeaves f with
  | [] => raise .emptyFreq 0
  | leaf :: leaves =>
    let nodes := mergeLoop (leaf :: leaves).length (leaf :: leaves) (initialQueue (leaf :: leaves))
    .ok (nodes, BitVec.ofNat 9 (nodes.length - 1))

/-- BUILD (40_count_build R111). -/
def buildBody (s : State) (_S : List Byte) : Run (State × List Byte) := do
  let tree ← buildTree s.freq
  .ok ((s.setTree tree.1 tree.2).clearCT, [])

/-- BUILD (40_count_build R111). -/
def execBuild (s : State) : Result := complete (cmdInfo .build) buildBody s

end Sys2Proof.Machine
end

