-- ==== Sys2Proof/Machine/Serializer.lean ====
section
/-! DEFINITION. The tree serializer and deserializer: SERIALIZE and DESERIALIZE (42_serializer.md), with UTF-8
(30_encoding.md R96, R97). -/

namespace Sys2Proof.Machine

/-- `Utf8Enc(c)` for a symbol (30_encoding R96). -/
def utf8Enc (sym : Byte) : List Byte :=
  if sym.toNat ≤ 0x7F then [sym]
  else [BitVec.ofNat 8 (0xC0 + sym.toNat / 64), BitVec.ofNat 8 (0x80 + sym.toNat % 64)]

/-- `SerNode` (42_serializer R141): marker and symbol character, or marker, left, right. -/
def Tree.ser : Tree → List Byte
  | .leaf _ sym => 0x31#8 :: utf8Enc sym
  | .node _ l r => 0x30#8 :: (l.ser ++ r.ser)

/-- `Ser()` (42_serializer R141). -/
def ser (nodes : List Node) (root : NodeIndex) : Run (List Byte) :=
  if nodes = [] then .ok []
  else
    match arenaTree nodes root with
    | none => .error .brokenArena
    | some t => .ok t.ser

/-- SERIALIZE (42_serializer R140). -/
def serializeBody (s : State) (_S : List Byte) : Run (State × List Byte) := do
  let out ← ser s.nodes s.root
  boundedOutput s.dstCap s out

/-- SERIALIZE (42_serializer R140). -/
def execSerialize (s : State) : Result := complete (cmdInfo .serialize) serializeBody s

/-- A row of the table of 30_encoding R97: the range of the first byte, the mask of its payload bits, and the ranges
of the bytes after it. -/
structure Utf8Row where
  lo : Nat
  hi : Nat
  mask : Nat
  tail : List (Nat × Nat)
deriving DecidableEq, Repr

/-- The well-formed sequences (30_encoding R97); E1–EC and EE–EF are one row there. -/
def utf8Table : List Utf8Row :=
  [⟨0x00, 0x7F, 0x7F, []⟩,
   ⟨0xC2, 0xDF, 0x1F, [(0x80, 0xBF)]⟩,
   ⟨0xE0, 0xE0, 0x0F, [(0xA0, 0xBF), (0x80, 0xBF)]⟩,
   ⟨0xE1, 0xEC, 0x0F, [(0x80, 0xBF), (0x80, 0xBF)]⟩,
   ⟨0xEE, 0xEF, 0x0F, [(0x80, 0xBF), (0x80, 0xBF)]⟩,
   ⟨0xED, 0xED, 0x0F, [(0x80, 0x9F), (0x80, 0xBF)]⟩,
   ⟨0xF0, 0xF0, 0x07, [(0x90, 0xBF), (0x80, 0xBF), (0x80, 0xBF)]⟩,
   ⟨0xF1, 0xF3, 0x07, [(0x80, 0xBF), (0x80, 0xBF), (0x80, 0xBF)]⟩,
   ⟨0xF4, 0xF4, 0x07, [(0x80, 0x8F), (0x80, 0xBF), (0x80, 0xBF)]⟩]

/-- The row whose first-byte range holds `c`. -/
def utf8Row (c : Nat) : Option Utf8Row := utf8Table.find? (fun r => decide (r.lo ≤ c ∧ c ≤ r.hi))

/-- The code point of the sequence whose first byte left `acc` and whose other bytes must lie in `ranges`; none if
one does not exist or lies outside its range (30_encoding R97). -/
def utf8Tail : List (Nat × Nat) → List Byte → Nat → Option Nat
  | [], _, acc => some acc
  | _ :: _, [], _ => none
  | (lo, hi) :: ranges, b :: bytes, acc =>
    if lo ≤ b.toNat ∧ b.toNat ≤ hi then utf8Tail ranges bytes (acc * 64 + b.toNat % 64) else none

/-- The well-formed sequence that `c :: rest` starts with: its code point and how many bytes follow the first
(30_encoding R97). `c.toNat % (mask + 1)` is `c & mask`, the masks being all ones. -/
def utf8Head (c : Byte) (rest : List Byte) : Option (Nat × Nat) :=
  match utf8Row c.toNat with
  | none => none
  | some row => (utf8Tail row.tail rest (c.toNat % (row.mask + 1))).map (fun cp => (cp, row.tail.length))

/-- A decoded character: its code point and the source offset of its first byte (30_encoding R97). -/
structure Utf8Char where
  cp : Nat
  off : Nat
deriving DecidableEq, Repr

/-- `Utf8Dec` (30_encoding R97) over the bytes from offset `off`, of which the first `skip` belong to a character
already decoded. -/
def utf8DecFrom : List Byte → Nat → Nat → Run (List Utf8Char)
  | [], _, _ => .ok []
  | _ :: bytes, off, skip + 1 => utf8DecFrom bytes (off + 1) skip
  | b :: bytes, off, 0 =>
    match utf8Head b bytes with
    | none => raise .treeUtf8 off
    | some (cp, more) => do
      let t ← utf8DecFrom bytes (off + 1) more
      .ok (⟨cp, off⟩ :: t)

/-- `Utf8Dec(b, base)` (30_encoding R97). -/
def utf8Dec (b : List Byte) (base : Nat) : Run (List Utf8Char) := utf8DecFrom b base 0

/-- A parsed subtree: its nodes in pre-order from the index it was given, and the characters left. -/
structure Parsed where
  nodes : List Node
  rest : List Utf8Char
deriving DecidableEq, Repr

/-- `Parse()` (42_serializer R143): one subtree of the text `t`, its first node at index `k`; `stop` is `end`. Every
call takes at least one character, so `fuel` = |t| suffices: at `fuel` = 0 the text is used up. -/
def parseTree (stop : Nat) : Nat → List Utf8Char → Nat → Run Parsed
  | 0, _, _ => raise .treeExhausted stop
  | _ + 1, [], _ => raise .treeExhausted stop
  | fuel + 1, c :: t, k =>
    if c.cp ≠ 0x30 ∧ c.cp ≠ 0x31 then raise .treeMarker c.off
    else if k = Config.maxNodes then raise .treeOverflow c.off
    else if c.cp = 0x31 then
      match t with
      | [] => raise .treeExhausted stop
      | sym :: t' => .ok ⟨[.leaf (BitVec.ofNat 8 (sym.cp % 256)) 0], t'⟩
    else do
      let l ← parseTree stop fuel t (k + 1)
      let r ← parseTree stop fuel l.rest (k + 1 + l.nodes.length)
      .ok ⟨.internal 0 (BitVec.ofNat 9 (k + 1)) (BitVec.ofNat 9 (k + 1 + l.nodes.length)) :: (l.nodes ++ r.nodes),
        r.rest⟩

/-- `Deser(b, base)` (42_serializer R143): the arena; its root is index 0. -/
def deser (b : List Byte) (base : Nat) : Run (List Node) := do
  let t ← utf8Dec b base
  let p ← parseTree (base + b.length) t.length t 0
  match p.rest with
  | [] => .ok p.nodes
  | c :: _ => raise .treeTrailing c.off

/-- DESERIALIZE (42_serializer R142). -/
def deserializeBody (s : State) (S : List Byte) : Run (State × List Byte) := do
  let nodes ← deser S 0
  .ok ((s.setTree nodes 0).clearCT, [])

/-- DESERIALIZE (42_serializer R142). -/
def execDeserialize (s : State) : Result := complete (cmdInfo .deserialize) deserializeBody s

end Sys2Proof.Machine
end

