-- ==== Sys2Proof/Machine/Container.lean ====
section
/-! DEFINITION. The encoder and decoder sequencers: COMPRESS and DECOMPRESS (44_container.md). -/

namespace Sys2Proof.Machine

/-- The container `⟨pad⟩ ++ T ++ ⟨0x00⟩ ++ B` (30_encoding R94; 44_container R200). -/
def container (pad : Nat) (T B : List Byte) : List Byte := BitVec.ofNat 8 pad :: (T ++ 0x00#8 :: B)

/-- `CT[S[0]].code ++ ... ++ CT[S[|S|−1]].code` (44_container R200). -/
def codeString (t : CodeTable) (S : List Byte) : Bits := S.flatMap (fun b => (lookupCode t b).getD [])

/-- COMPRESS of a non-empty `S` (44_container R200), before the output bound. -/
def compressData (s : State) (S : List Byte) : Run (State × List Byte) := do
  let tree ← buildTree (countTable S)
  let t ← codes tree.1 tree.2
  let T ← ser tree.1 tree.2
  let packed := pack (codeString t S)
  .ok ((((s.setFreq (countTable S)).setTree tree.1 tree.2).setCT t).setPad (BitVec.ofNat 8 packed.2),
    container packed.2 T packed.1)

/-- COMPRESS (44_container R200), before the output bound: "if `data` is empty, return empty output immediately". -/
def compressRun (s : State) (S : List Byte) : Run (State × List Byte) :=
  if S = [] then .ok (((s.setFreq (countTable S)).clearTree.clearCT).setPad 0, []) else compressData s S

/-- COMPRESS (44_container R200). -/
def compressBody (s : State) (S : List Byte) : Run (State × List Byte) := do
  let r ← compressRun s S
  boundedOutput s.dstCap r.1 r.2

/-- COMPRESS (44_container R200). -/
def execCompress (s : State) : Result := complete (cmdInfo .compress) compressBody s

/-- The least `j` with `rest[j] = 0x00` (44_container R201: the separator sought from offset 1). -/
def findZero : List Byte → Option Nat
  | [] => none
  | b :: rest => if b = 0 then some 0 else (findZero rest).map (· + 1)

/-- DECOMPRESS of the container `p :: rest` (44_container R201), before the output bound. -/
def decompressData (s : State) (p : Byte) (rest : List Byte) : Run (State × List Byte) :=
  match findZero rest with
  | none => raise .noSep (sat32 (rest.length + 1))
  | some j => do
    let nodes ← deser (rest.take j) 1
    let bits ← unpack (rest.drop (j + 1)) p.toNat
    let out ← walk nodes 0 bits
    .ok (((s.setTree nodes 0).clearCT).setPad p, out)

/-- DECOMPRESS (44_container R201), before the output bound: "if `container` is empty, return empty output". -/
def decompressRun (s : State) : List Byte → Run (State × List Byte)
  | [] => .ok ((s.clearTree.clearCT).setPad 0, [])
  | p :: rest => decompressData s p rest

/-- DECOMPRESS (44_container R201). -/
def decompressBody (s : State) (S : List Byte) : Run (State × List Byte) := do
  let r ← decompressRun s S
  boundedOutput s.dstCap r.1 r.2

/-- DECOMPRESS (44_container R201). -/
def execDecompress (s : State) : Result := complete (cmdInfo .decompress) decompressBody s

/-- The pseudocode of each command (40_count_build.md to 44_container.md). -/
def bodyOf : Instr → State → List Byte → Run (State × List Byte)
  | .compress => compressBody
  | .decompress => decompressBody
  | .count => countBody
  | .build => buildBody
  | .codegen => codegenBody
  | .serialize => serializeBody
  | .deserialize => deserializeBody
  | .encode => encodeBody
  | .decode => decodeBody
  | .packbits => packbitsBody
  | .unpackbits => unpackbitsBody

end Sys2Proof.Machine
end

