-- ==== Sys2Proof/Machine/HostMoves.lean ====
section
/-! DEFINITION. The host's step and the core's step (00_scope.md R5; 30_encoding.md R100, R105;
70_reset_and_hazards.md R265, R272). -/

namespace Sys2Proof.Machine

/-- Is `a` a byte of the source region of the command in flight (70_reset R265)? -/
def State.inActiveSrc (s : State) (a : Nat) : Bool :=
  match s.inFlight with
  | none => false
  | some i => (cmdInfo i).readsSrc && s.srcRegion.contains a

/-- Is `a` a byte of the destination region of the command in flight (70_reset R265)? -/
def State.inActiveDst (s : State) (a : Nat) : Bool :=
  match s.inFlight with
  | none => false
  | some i => (cmdInfo i).writesDst && s.dstRegion.contains a

/-- The value the last `csrr` of that offset returned (30_encoding R100). -/
def lastRead : List ReadEvent → CsrOffset → Option Word
  | [], _ => none
  | .csr o v :: log, offset => if o = offset then some v else lastRead log offset
  | .mem _ _ :: log, offset => lastRead log offset

/-- The bus transaction of a host move in a state (30_encoding R100). -/
def State.transaction (s : State) (op : HostOp) : Option BusTransaction :=
  op.transaction s.platform.csrBase (fun c => lastRead s.readLog c.offset)

/-- A CSR read of a given width (10_state R21, 93 U4). -/
def hostCsrRead (s : State) (width : AccessWidth) (offset : CsrOffset) : Result :=
  if csrAccessOk width offset then .next (s.csrRead offset).1 else .refused .csrAccess

/-- A CSR write of a given width (10_state R21, 93 U4). -/
def hostCsrWrite (s : State) (width : AccessWidth) (offset : CsrOffset) (v : Word) : Result :=
  if csrAccessOk width offset then .next (s.csrWriteAt offset v) else .refused .csrAccess

/-- A host read of a memory byte (70_reset R265, R272). A byte access inside the CSR window is no aligned 32-bit
access (10_state R21, 93 U4, log entry 8). -/
def hostMemRead (s : State) (a : Word) : Result :=
  if s.csrWindow.contains a.toNat then .refused .csrAccess
  else if s.inActiveDst a.toNat then .fault (.hazard a)
  else .next { s with readLog := .mem a (Memory.read s.mem a.toNat) :: s.readLog }

/-- A host write of a memory byte (70_reset R265, R272; 10_state R21, 93 U4, log entry 8). -/
def hostMemWrite (s : State) (a : Word) (v : Byte) : Result :=
  if s.csrWindow.contains a.toNat then .refused .csrAccess
  else if s.inActiveSrc a.toNat || s.inActiveDst a.toNat then .fault (.hazard a)
  else .next { s with mem := Memory.write s.mem a.toNat v }

/-- One `csrr` of a `poll`; the poll is kept at the head of the program until its test holds (30_encoding R100). -/
def hostPoll (s : State) (c : Csr) (mask value : Word) : State :=
  let (s', v) := s.csrRead c.offset
  if v &&& mask = value then s' else { s' with program := .poll c mask value :: s'.program }

/-- A host-side branch: the indented moves are skipped unless the test holds (30_encoding R100). -/
def hostBranch (s : State) (c : Csr) (mask value : Word) (body : Nat) : Result :=
  match lastRead s.readLog c.offset with
  | none => .refused .valueNeverRead
  | some v => if v &&& mask = value then .next s else .next { s with program := s.program.drop body }

/-- `csrw dst, [src]` (30_encoding R100). -/
def hostWriteFrom (s : State) (dst src : Csr) : Result :=
  match lastRead s.readLog src.offset with
  | none => .refused .valueNeverRead
  | some v => .next (s.csrWriteAt dst.offset v)

/-- One move of the host or of the reset input, already taken from the program (70_reset R272, R260). -/
def hostMove (op : HostOp) (s : State) : Result :=
  match op with
  | .csrRead width offset => hostCsrRead s width offset
  | .csrWrite width offset data => hostCsrWrite s width offset data
  | .csrWriteFrom dst src => hostWriteFrom s dst src
  | .poll c mask value => .next (hostPoll s c mask value)
  | .branch c mask value body => hostBranch s c mask value body
  | .memRead addr => hostMemRead s addr
  | .memWrite addr data => hostMemWrite s addr data
  | .hardReset => .next s.coreReset

/-- The host's step: its next move; a host with no move left leaves the state as it is (60_exceptions R236). -/
def hostStep (s : State) : Result :=
  match s.program with
  | [] => .next s
  | op :: rest => hostMove op { s with program := rest }

/-- The core's step: with `BUSY` = 1, the completion of `CUR_OP` (30_encoding R105); with `BUSY` = 0 the core has no
step and the state stays (60_exceptions R236). -/
def coreStep (s : State) : Result :=
  if s.busy then
    match s.inFlight with
    | some i => exec i s
    | none => .refused .noCommandInFlight
  else .next s

/-- Launch: memory contents and a host program (30_encoding R100 `mem`; 00_scope R6 `Mem`). -/
def State.launch (s : State) (cells : List Host.Cell) (program : HostProgram) (agenda : List Agent) : State :=
  { s with mem := Memory.writeCells s.mem cells, program := program, agenda := agenda }

end Sys2Proof.Machine
end

