-- ==== Sys2Proof/Machine/Step.lean ====
section
/-! DEFINITION. One step of the whole machine: the agent whose turn it is moves (00_scope.md R5; 30_encoding.md R105;
70_reset_and_hazards.md R270; log entry 3). -/

namespace Sys2Proof.Machine

/-- The agenda says whose turn it is; when it is used up, a command in flight completes before the host moves. -/
def step (s : State) : Host.Outcome State Fault Refusal :=
  match s.agenda with
  | .host :: rest => hostStep { s with agenda := rest }
  | .core :: rest => coreStep { s with agenda := rest }
  | [] => if s.busy then coreStep s else hostStep s

/-- `s` with the opcode-table word written to an idle core's `CMD` (30_encoding R104), the core's turn next: the
command is in flight and the next step runs it. -/
def State.withFetchWord (s : State) (nbits w : Nat) : State :=
  { State.accept { s with busy := false } (tableWord nbits w) with
    agenda := match s.agenda with
      | [] => []
      | a :: rest => .core :: a :: rest }

end Sys2Proof.Machine
end

