-- ==== Sys2Proof/Safety.lean ====
section
/-! DEFINITION. What counts as a good state and a safe run of the HUF core, and the words the statements use. -/

namespace Sys2Proof.Machine

/-! ### Completion records and frames -/

/-- The completion record of a command (30_encoding R105; 60_exceptions R224 (c), R225). -/
def State.completedWith (t : State) (outLen : Nat) (errCode : Byte) (errPos : Nat) : Prop :=
  t.outLen.toNat = outLen ∧ t.errCode = errCode ∧ t.errPos.toNat = errPos ∧ t.busy = false ∧ t.done = true ∧
    t.curOp = none ∧ t.snap = none

/-- The configuration CSRs, `IE`, `LAST_OP` and the selectors are unchanged; no command has them in its write set
(30_encoding R93). -/
def SameConfig (s t : State) : Prop :=
  t.ie = s.ie ∧ t.lastOp = s.lastOp ∧ t.srcAddr = s.srcAddr ∧ t.srcLen = s.srcLen ∧ t.dstAddr = s.dstAddr ∧
    t.dstCap = s.dstCap ∧ t.freqSel = s.freqSel ∧ t.nodeSel = s.nodeSel ∧ t.codeSel = s.codeSel

/-- The platform's parameters and the host's side are unchanged. -/
def SameSurroundings (s t : State) : Prop :=
  t.platform = s.platform ∧ t.program = s.program ∧ t.agenda = s.agenda ∧ t.readLog = s.readLog

/-- `NODE`, `NODE_COUNT` and `ROOT` are unchanged. -/
def SameTree (s t : State) : Prop := t.nodes = s.nodes ∧ t.root = s.root

/-- `CT` and `CT_VALID` are unchanged. -/
def SameCodeTable (s t : State) : Prop := t.ct = s.ct ∧ t.ctValid = s.ctValid

/-- Every byte of memory reads as before. -/
def SameMemory (s t : State) : Prop := ∀ a, Memory.read t.mem a = Memory.read s.mem a

/-- Every byte outside the first `n` bytes of the destination region reads as before. -/
def SameMemoryButOutput (s t : State) (n : Nat) : Prop :=
  ∀ a, ¬(s.dstAddr.toNat ≤ a ∧ a < s.dstAddr.toNat + n) → Memory.read t.mem a = Memory.read s.mem a

/-- Every byte outside the destination region reads as before (20_memory R74, R75). -/
def SameMemoryButDestination (s t : State) : Prop := SameMemoryButOutput s t s.dstCap.toNat

/-- `out` stands at the start of the destination region of `s` (20_memory R74). -/
def OutputIs (s t : State) (out : List Byte) : Prop :=
  Memory.readRange t.mem s.dstAddr.toNat out.length = out

/-- The code table is cleared (10_state R53 `ClearCT`). -/
def CodeTableCleared (t : State) : Prop := (∀ sym, entry t.ct sym = none) ∧ t.ctValid = false

/-- The tree is cleared (10_state R53 `ClearTree`). -/
def TreeCleared (t : State) : Prop := t.nodes = [] ∧ t.root = 0

/-- The start checks pass and no ground of 93 U5 and U9 to refuse the command stands. -/
def CanRun (i : Instr) (s : State) : Prop :=
  startCheck (cmdInfo i) s = none ∧ platformCheck (cmdInfo i) s = none

/-- The source snapshot is `S`, as long as `SRC_LEN` says (20_memory R73). -/
def SourceIs (s : State) (S : List Byte) : Prop := s.snap = some S ∧ S.length = s.srcLen.toNat

/-! ### The arena in the spec's own words (10_state R51) -/

/-- The node reached from node `n` by a path: 0 goes left, 1 goes right (00_scope R12 "code"). -/
def follow (nodes : List Node) : Nat → Bits → Option Nat
  | n, [] => some n
  | n, b :: path =>
    match nodes[n]? with
    | some (.internal _ l r) => follow nodes (if b then r.toNat else l.toNat) path
    | some (.leaf _ _) => none
    | none => none

/-- The path leads from the root to a leaf of the symbol. -/
def LeadsToLeaf (nodes : List Node) (root : NodeIndex) (path : Bits) (sym : Byte) : Prop :=
  ∃ m w, follow nodes root.toNat path = some m ∧ nodes[m]? = some (.leaf sym w)

/-- Is the node a leaf? -/
def Node.isLeaf : Node → Bool
  | .leaf _ _ => true
  | .internal _ _ _ => false

/-- Is `i` a child of the node? -/
def Node.hasChild (i : Nat) : Node → Bool
  | .leaf _ _ => false
  | .internal _ l r => l.toNat == i || r.toNat == i

/-- How many leaves an arena holds. -/
def leafCount (nodes : List Node) : Nat := nodes.countP Node.isLeaf

/-- The leaf symbols of an arena, by index. -/
def leafSymbols (nodes : List Node) : List Byte :=
  nodes.filterMap (fun n => match n with
    | .leaf sym _ => some sym
    | .internal _ _ _ => none)

/-- The leaf symbols of a tree in left-first pre-order (41_codegen R131). -/
def Tree.leafSyms : Tree → List Byte
  | .leaf _ sym => [sym]
  | .node _ l r => l.leafSyms ++ r.leafSyms

/-- A tree without its arena indices: two trees are isomorphic when their shapes are equal (42_serializer R144). -/
def Tree.shape : Tree → Tree
  | .leaf _ sym => .leaf 0 sym
  | .node _ l r => .node 0 l.shape r.shape

/-- The arena is empty, or the nodes met from the root are all the valid nodes, each met once, so they form one binary
tree with no cycle (10_state R51). -/
def ArenaOk (nodes : List Node) (root : NodeIndex) : Prop :=
  nodes.length ≤ Config.maxNodes ∧
    ((nodes = [] ∧ root = 0) ∨
      ∃ t, arenaTree nodes root = some t ∧ t.indices.Nodup ∧ t.indices.length = nodes.length)

/-! ### Tree texts in the spec's own words (30_encoding R97, 42_serializer R143) -/

/-- A code point that the table of 30_encoding R97 reads: up to 0x10FFFF and no surrogate. -/
def isScalar (cp : Nat) : Bool := decide (cp < 0xD800 ∨ (0xE000 ≤ cp ∧ cp < 0x110000))

/-- The sequence of the table of 30_encoding R97 whose code point is `cp`. -/
def utf8Bytes (cp : Nat) : List Byte :=
  if cp < 0x80 then [BitVec.ofNat 8 cp]
  else if cp < 0x800 then [BitVec.ofNat 8 (0xC0 + cp / 64), BitVec.ofNat 8 (0x80 + cp % 64)]
  else if cp < 0x10000 then
    [BitVec.ofNat 8 (0xE0 + cp / 4096), BitVec.ofNat 8 (0x80 + cp / 64 % 64), BitVec.ofNat 8 (0x80 + cp % 64)]
  else
    [BitVec.ofNat 8 (0xF0 + cp / 262144), BitVec.ofNat 8 (0x80 + cp / 4096 % 64), BitVec.ofNat 8 (0x80 + cp / 64 % 64),
      BitVec.ofNat 8 (0x80 + cp % 64)]

/-- The bytes of a text of code points. -/
def utf8Text (chars : List Nat) : List Byte := chars.flatMap utf8Bytes

/-- A reading of tree-text characters: with `open_` subtrees still to read and `n` nodes read before them, how many of
each after them. None where the characters go on after the last subtree, end between a leaf's marker and its symbol, or
hold another character than `0` and `1` where a marker is due. -/
def readText (open_ n : Nat) : List Nat → Option (Nat × Nat)
  | [] => some (open_, n)
  | c :: rest =>
    match open_ with
    | 0 => none
    | k + 1 =>
      if c = 0x30 then readText (k + 2) (n + 1) rest
      else if c = 0x31 then
        match rest with
        | [] => none
        | _ :: rest' => readText k (n + 1) rest'
      else none

/-- The symbol characters of a tree text: those after a leaf's marker. -/
def textSymbols : List Nat → List Nat
  | [] => []
  | c :: rest =>
    if c = 0x31 then
      match rest with
      | [] => []
      | sym :: rest' => sym :: textSymbols rest'
    else textSymbols rest

/-- `S` is the text of one whole tree of `n` nodes, at most 511 (42_serializer R143). -/
def TextAccepted (S : List Byte) (chars : List Nat) (n : Nat) : Prop :=
  S = utf8Text chars ∧ (∀ cp ∈ chars, isScalar cp = true) ∧ readText 1 0 chars = some (0, n) ∧ n ≤ 511

/-- `S` is `before` followed by the character `c` and more, and reading `before` leaves `open_` subtrees to read after
`n` nodes, at most 511. -/
def TextStopsAt (S : List Byte) (before : List Nat) (c open_ n : Nat) : Prop :=
  ∃ more, S = utf8Text (before ++ c :: more) ∧ (∀ cp ∈ before ++ c :: more, isScalar cp = true) ∧
    readText 1 0 before = some (open_, n) ∧ n ≤ 511

/-- The error of 42_serializer R143 that the bytes `S` at offset `base` raise, and its offset. -/
inductive TextError (S : List Byte) (base : Nat) : Byte → Nat → Prop where
  /-- `TREE_UTF8` at the first byte that no well-formed sequence starts with, before every other error. -/
  | utf8 (chars : List Nat) (bad : List Byte) (hS : S = utf8Text chars ++ bad)
      (hchars : ∀ cp ∈ chars, isScalar cp = true) (hne : bad ≠ [])
      (hbad : ∀ cp, isScalar cp = true → ¬(utf8Bytes cp <+: bad)) : TextError S base 0x21#8 (base + (utf8Text chars).length)
  /-- `TREE_EXHAUSTED` at the end: a subtree is still to read. -/
  | exhausted (chars : List Nat) (k n : Nat) (hS : S = utf8Text chars) (hchars : ∀ cp ∈ chars, isScalar cp = true)
      (hread : readText 1 0 chars = some (k + 1, n)) (hn : n ≤ 511) : TextError S base 0x22#8 (base + S.length)
  /-- `TREE_EXHAUSTED` at the end: the last leaf's symbol is missing. -/
  | noSymbol (before : List Nat) (k n : Nat) (hS : S = utf8Text (before ++ [0x31]))
      (hchars : ∀ cp ∈ before, isScalar cp = true) (hread : readText 1 0 before = some (k + 1, n)) (hn : n < 511) :
      TextError S base 0x22#8 (base + S.length)
  /-- `TREE_MARKER` at a character that is due to be a marker and is none. -/
  | marker (before : List Nat) (c k n : Nat) (hS : TextStopsAt S before c (k + 1) n) (h0 : c ≠ 0x30) (h1 : c ≠ 0x31) :
      TextError S base 0x23#8 (base + (utf8Text before).length)
  /-- `TREE_TRAILING` at the character after the root's subtree. -/
  | trailing (before : List Nat) (c n : Nat) (hS : TextStopsAt S before c 0 n) :
      TextError S base 0x24#8 (base + (utf8Text before).length)
  /-- `TREE_OVERFLOW` at the marker of the 512th node. -/
  | overflow (before : List Nat) (c k : Nat) (hS : TextStopsAt S before c (k + 1) 511) (hc : c = 0x30 ∨ c = 0x31) :
      TextError S base 0x25#8 (base + (utf8Text before).length)

/-- `c` is the container of `x`: padding byte, text of the tree of the counts of `x`, 0x00, the packed codes of `x`
(44_container R200). -/
def ContainerOf (x c : List Byte) : Prop :=
  ∃ (nodes : List Node) (root : NodeIndex) (ct : CodeTable) (T : List Byte),
    buildTree (countTable x) = .ok (nodes, root) ∧ codes nodes root = .ok ct ∧ ser nodes root = .ok T ∧
      c = BitVec.ofNat 8 (pack (x.flatMap (fun y => (entry ct y).getD []))).2 ::
        (T ++ 0x00#8 :: (pack (x.flatMap (fun y => (entry ct y).getD []))).1)

/-! ### Invariants of every step -/

/-- The sum of all counts (40_count_build R111). -/
def totalCount (f : FreqTable) : Nat := (symbols.map (fun sym => (entry f sym).toNat)).sum

/-- The symbols present, in ascending order (00_scope R12). -/
def presentSymbols (f : FreqTable) : List Byte := symbols.filter (fun sym => entry f sym != 0)

/-- Memory is in its canonical form. -/
def MemoryOk (s : State) : Prop := Memory.wf s.mem

/-- The node arena meets 10_state R51. -/
def TreeOk (s : State) : Prop := ArenaOk s.nodes s.root

/-- The code table is cleared, or it is the table of the tree in the arena (10_state R52, R53). -/
def CodeTableOk (s : State) : Prop :=
  (s.ctValid = false ∧ ∀ sym, entry s.ct sym = none) ∨
    (s.ctValid = true ∧ s.nodes ≠ [] ∧ codes s.nodes s.root = .ok s.ct)

/-- The command lifecycle (10_state R25, R54; 30_encoding R104, R105): while `BUSY` = 1 an opcode of the map is held,
`DONE` and the completion record are 0, and the snapshot is the source region as it still stands (20_memory R73,
70_reset R265); while `BUSY` = 0 nothing is held. -/
def LifecycleOk (s : State) : Prop :=
  (s.busy = true →
      s.done = false ∧ s.errCode = 0 ∧ s.errPos = 0 ∧ s.outLen = 0 ∧
        ∃ i S, s.inFlight = some i ∧ s.snap = some S ∧ ((cmdInfo i).readsSrc = true → S = s.source)) ∧
    (s.busy = false → s.curOp = none ∧ s.snap = none)

/-- The sum of all counts fits 32 bits (40_count_build R111). -/
def CountsOk (s : State) : Prop := totalCount s.freq ≤ 0xFFFFFFFF

/-- All the invariants. -/
structure Inv (s : State) : Prop where
  memory : MemoryOk s
  tree : TreeOk s
  codeTable : CodeTableOk s
  lifecycle : LifecycleOk s
  counts : CountsOk s

/-! ### Runs -/

/-- The run is over: the host has made its last move and `BUSY` = 0 (70_reset R273). -/
def State.runOver (s : State) : Bool := decide (s.program = []) && !s.busy

/-- Does the step breach 70_reset R265? -/
def isHazard : Result → Bool
  | .fault (.hazard _) => true
  | _ => false

/-- A run of `n` steps from `s` is safe when none of its steps is a `HAZARD` (70_reset R265, 93 U8). -/
def SafeRun (s : State) (n : Nat) : Prop :=
  ∀ k ≤ n, ∀ t, Host.Core.run Sys2Proof.core k s = .next t → isHazard (step t) = false

end Sys2Proof.Machine
end

