-- ==== Sys2Proof/Certificates/Slice0/Obligations.lean ====
section
/-! DEFINITION. The statements about the HUF core, for the provers. -/

open Sys2Proof Sys2Proof.Machine

/-! ### Command words -/

/-- 30_encoding R91, R92: the opcode map, matched "with mask 0x000000FF"; 0x00 and 0x0C to 0xFF are reserved. -/
def Obligations.DecodeMatchesMaskedOpcode : Prop :=
  (∀ (w : Word) (i : Instr), decode w = .ok i ↔ w &&& 0x000000FF#32 = encode i) ∧
    (∀ w : Word, (∃ e, decode w = .error e) ↔ (w.toNat % 256 = 0 ∨ 0x0C ≤ w.toNat % 256)) ∧
    [Instr.compress, .decompress, .count, .build, .codegen, .serialize, .deserialize, .encode, .decode, .packbits,
      .unpackbits].map encode =
    [0x01#32, 0x02#32, 0x03#32, 0x04#32, 0x05#32, 0x06#32, 0x07#32, 0x08#32, 0x09#32, 0x0A#32, 0x0B#32]

/-- Decoding of words written out from 30_encoding R90 and R91 (95_test_vectors V-I1 to V-I3). A sanity statement. -/
def Obligations.WrittenOutWordsDecode : Prop :=
  decode 0x00000101#32 = .ok .compress ∧ decode 0x00000002#32 = .ok .decompress ∧
    decode 0xFFFFFF03#32 = .ok .count ∧ decode 0x00000005#32 = .ok .codegen ∧ decode 0x12345606#32 = .ok .serialize ∧
    decode 0x00000009#32 = .ok .decode ∧ decode 0x0000000B#32 = .ok .unpackbits ∧
    decode 0x0000000C#32 = .error (.reservedOpcode 0x0C#8) ∧ decode 0x00000100#32 = .error (.reservedOpcode 0x00#8)

/-! ### Steps -/

/-- 30_encoding R105: with a command in flight and the turn the core's, a step is the command's meaning. Whose turn it
is (the agenda) is the model's own field, log entry 3. -/
def Obligations.StepRunsTheDecodedCommand : Prop :=
  (∀ (s : State) (op : Byte) (i : Instr), s.busy = true → s.curOp = some op → decodeOp op = .ok i →
    (s.agenda = [] → step s = exec i s) ∧
    (∀ rest, s.agenda = .core :: rest → step s = exec i { s with agenda := rest })) ∧
  (∀ (s : State) (i : Instr), s.agenda = [] →
    step (s.withFetchWord 32 (encode i).toNat) = exec i (s.withFetchWord 32 (encode i).toNat))

/-- A host turn performs the host's next move; an idle machine with no move left stays as it is (60_exceptions R236).
The agenda and the list of moves are the model's own fields, log entry 3. -/
def Obligations.StepPerformsTheHostsMove : Prop :=
  (∀ (s : State) (op : HostOp) (prog : HostProgram), s.program = op :: prog →
    (∀ rest, s.agenda = .host :: rest → step s = hostMove op { s with agenda := rest, program := prog }) ∧
    (s.agenda = [] → s.busy = false → step s = hostMove op { s with program := prog })) ∧
  (∀ s : State, s.program = [] → s.busy = false → s.agenda = [] → step s = .next s)

/-- 70_reset R270: "a command's completion step (30_encoding.md rule R105) is taken after finitely many host steps":
within as many steps as the agenda is long, and one more, the machine has been idle or has stopped. The agenda is the
model's own field, log entry 3. -/
def Obligations.CommandInFlightEnds : Prop :=
  ∀ (s : State) (i : Instr), s.inFlight = some i →
    ∃ n ≤ s.agenda.length + 1, ∀ t, Host.Core.run Sys2Proof.core n s = .next t → t.busy = false

/-- 10_state R25: "Only the core writes `BUSY`, `ERR`, `TREE_VALID` and `CT_VALID`": a host move other than a `CMD`
write or a reset leaves `BUSY`, the error record, every table, `PAD` (but for a `PAD` write) and memory (but for the byte
a memory write writes) alone. -/
def Obligations.HostMovesLeaveResultsAlone : Prop :=
  ∀ (s t : State) (op : HostOp), hostMove op s = .next t → op ≠ .hardReset →
    (∀ d, op ≠ .csrWrite .word Csr.cmd.offset d) → (∀ d, op ≠ .csrWrite .word Csr.ctrl.offset d) →
    (∀ c, op ≠ .csrWriteFrom .cmd c) → (∀ c, op ≠ .csrWriteFrom .ctrl c) →
    t.busy = s.busy ∧ t.errCode = s.errCode ∧ t.errPos = s.errPos ∧ t.outLen = s.outLen ∧ t.lastOp = s.lastOp ∧
      t.ie = s.ie ∧ t.freq = s.freq ∧ SameTree s t ∧ SameCodeTable s t ∧ t.curOp = s.curOp ∧ t.snap = s.snap ∧
      t.platform = s.platform ∧ t.agenda = s.agenda ∧
      ((∀ d, op ≠ .csrWrite .word Csr.pad.offset d) → (∀ c, op ≠ .csrWriteFrom .pad c) → t.pad = s.pad) ∧
      ((∀ a b, op ≠ .memWrite a b) → t.mem = s.mem) ∧
      (∀ a b, op = .memWrite a b → ∀ x, x ≠ a.toNat → Memory.read t.mem x = Memory.read s.mem x)

/-! ### CSR accesses -/

/-- 30_encoding R104: the three cases of a host write of `v` to `CMD`; the snapshot taken is the bytes of the source
region (20_memory R73, R80) when that ends at or below 2^32 (otherwise the command completes with `RANGE_SRC`, log entry
13). -/
def Obligations.CmdWriteAcceptance : Prop :=
  ∀ (s : State) (v : Word),
    (s.busy = true → hostMove (csrw .cmd v) s = .next s) ∧
    (s.busy = false → (¬∃ i, decode v = .ok i) →
      hostMove (csrw .cmd v) s =
        .next { s with lastOp := opField v, done := true, errCode := 0x01#8, errPos := 0, outLen := 0 }) ∧
    (∀ i, s.busy = false → decode v = .ok i →
      hostMove (csrw .cmd v) s =
        .next { s with
          lastOp := opField v
          done := false
          errCode := 0
          errPos := 0
          outLen := 0
          curOp := some (opField v)
          snap := some s.source
          busy := true }) ∧
    (s.srcAddr.toNat + s.srcLen.toNat ≤ 2 ^ 32 →
      s.source.length = s.srcLen.toNat ∧
        ∀ k < s.srcLen.toNat, s.source[k]? = some (Memory.read s.mem (s.srcAddr.toNat + k)))

/-- 10_state R28 to R33, R46: while `BUSY` = 0 the host's write is what the register then holds; while `BUSY` = 1 a
write to `CMD`, `SRC_ADDR`, `SRC_LEN`, `DST_ADDR`, `DST_CAP` or `PAD` has no effect; writes to `CTRL`, `STATUS` (bit 1),
`FREQ_SEL`, `NODE_SEL` and `CODE_SEL` take effect at any time (for `STATUS` with 10_state R25: a write of 1 to bit 1
clears `DONE`, without effect while `BUSY` = 1); a write to a read-only register never has an effect. -/
def Obligations.CsrWrites : Prop :=
  ∀ (s : State) (c : Csr) (v : Word),
    (s.busy = true → c ∈ [Csr.cmd, .srcAddr, .srcLen, .dstAddr, .dstCap, .pad] →
      hostMove (csrw c v) s = .next s) ∧
    (s.busy = false →
      hostMove (csrw .srcAddr v) s = .next { s with srcAddr := v } ∧
      hostMove (csrw .srcLen v) s = .next { s with srcLen := v } ∧
      hostMove (csrw .dstAddr v) s = .next { s with dstAddr := v } ∧
      hostMove (csrw .dstCap v) s = .next { s with dstCap := v } ∧
      hostMove (csrw .pad v) s = .next { s with pad := BitVec.ofNat 8 v.toNat }) ∧
    hostMove (csrw .freqSel v) s = .next { s with freqSel := BitVec.ofNat 8 v.toNat } ∧
    hostMove (csrw .nodeSel v) s = .next { s with nodeSel := BitVec.ofNat 9 v.toNat } ∧
    hostMove (csrw .codeSel v) s = .next { s with codeSel := BitVec.ofNat 8 v.toNat } ∧
    (v.getLsbD 1 = false → hostMove (csrw .ctrl v) s = .next { s with ie := v.getLsbD 0 }) ∧
    (v.getLsbD 1 = true → hostMove (csrw .ctrl v) s = .next s.coreReset) ∧
    (v.getLsbD 1 = false → hostMove (csrw .status v) s = .next s) ∧
    (v.getLsbD 1 = true → s.busy = false → hostMove (csrw .status v) s = .next { s with done := false }) ∧
    (v.getLsbD 1 = true → s.busy = true → hostMove (csrw .status v) s = .next s) ∧
    (c ∈ [Csr.id, .errcode, .errpos, .outLen, .distinct, .freqVal, .nodeCount, .root, .nodeInfo, .nodeWeight,
        .nodeChild, .codeInfo] ∨ (∃ k, c = .codeW k) → hostMove (csrw c v) s = .next s)

/-- 10_state R22 to R45, R47: a host read while `BUSY` = 0 returns the register's value (`RegisterValues`, `NodeWindow`
and `CodeWindow` say which word that is) and changes no state of the core; what it returns while `BUSY` = 1. A value R47 leaves open is the free word of the next
draw (log entry 4). -/
def Obligations.CsrReads : Prop :=
  (∀ (s : State) (c : Csr), s.busy = false →
    hostMove (csrr c) s = .next { s with readLog := .csr c.offset (s.csrValue c) :: s.readLog }) ∧
  ∀ (s : State) (c : Csr), s.busy = true → ∃ t, hostMove (csrr c) s = .next t ∧
    t = { s with readLog := t.readLog, draws := t.draws } ∧
    ∃ v, t.readLog = .csr c.offset v :: s.readLog ∧
      (c ∈ [Csr.id, .ctrl, .cmd, .srcAddr, .srcLen, .dstAddr, .dstCap, .freqSel, .nodeSel, .codeSel] →
        v = s.csrValue c ∧ t.draws = s.draws) ∧
      (c = .status → (∀ k, k ≠ 3 → k ≠ 4 → v.getLsbD k = decide (k = 0)) ∧
        (∀ k, k = 3 ∨ k = 4 → v.getLsbD k = (Config.freeWord s.draws).getLsbD k) ∧ t.draws = s.draws + 1) ∧
      (c ∈ [Csr.errcode, .errpos, .outLen] → v = 0) ∧
      (c ∈ [Csr.pad, .distinct, .freqVal, .nodeCount, .root, .nodeInfo, .nodeWeight, .nodeChild, .codeInfo] ∨
          (∃ k, c = .codeW k) → v = Config.freeWord s.draws ∧ t.draws = s.draws + 1)

/-- 10_state R21: an aligned 32-bit read answers, changes no state but the model's read log and draw counter (log
entries 3 and 4), and the reserved offset 0x7C reads 0 and ignores writes; any other access is refused (93 U4). -/
def Obligations.CsrAccessWidthAndAlignment : Prop :=
  ∀ (s : State) (width : AccessWidth) (offset : CsrOffset) (v : Word),
    (width = .word → offset.toNat % 4 = 0 →
      (∃ t w, hostMove (.csrRead width offset) s = .next t ∧ t.readLog = .csr offset w :: s.readLog ∧
        t = { s with readLog := t.readLog, draws := t.draws } ∧ (offset = 0x7C#7 → w = 0)) ∧
      (∃ t, hostMove (.csrWrite width offset v) s = .next t) ∧
      (offset = 0x7C#7 → hostMove (.csrWrite width offset v) s = .next s)) ∧
    (¬(width = .word ∧ offset.toNat % 4 = 0) →
      hostMove (.csrRead width offset) s = .refused .csrAccess ∧
        hostMove (.csrWrite width offset v) s = .refused .csrAccess)

/-- 10_state R40, R41, R42: the node window, bit by bit. -/
def Obligations.NodeWindow : Prop :=
  ∀ s : State,
    (s.nodeCount ≤ s.nodeSel.toNat →
      s.csrValue .nodeInfo = 0 ∧ s.csrValue .nodeWeight = 0 ∧ s.csrValue .nodeChild = 0) ∧
    (∀ sym w, s.nodes[s.nodeSel.toNat]? = some (.leaf sym w) →
      (s.csrValue .nodeInfo).toNat = 512 + 256 + sym.toNat ∧ s.csrValue .nodeWeight = w ∧
        s.csrValue .nodeChild = 0) ∧
    (∀ w l r, s.nodes[s.nodeSel.toNat]? = some (.internal w l r) →
      (s.csrValue .nodeInfo).toNat = 512 ∧ s.csrValue .nodeWeight = w ∧
        (s.csrValue .nodeChild).toNat = l.toNat + 65536 * r.toNat)

/-- 10_state R44, R45: the code window. Bit `31 - j` of `CODE_Wk` is the code's bit `32k + j`, 0 past its end; a code
has at most 255 bits (41_codegen R134), which is a premise where R45 uses it. -/
def Obligations.CodeWindow : Prop :=
  ∀ s : State,
    (entry s.ct s.codeSel = none → s.csrValue .codeInfo = 0 ∧ ∀ k, s.csrValue (.codeW k) = 0) ∧
    (∀ code, entry s.ct s.codeSel = some code →
      (∀ (k : Fin 8) (j : Nat), j < 32 →
        (s.csrValue (.codeW k)).getLsbD (31 - j) = code.getD (32 * k.val + j) false) ∧
      (code.length ≤ 255 →
        (s.csrValue .codeInfo).toNat = 256 + code.length ∧ (s.csrValue (.codeW 7)).getLsbD 0 = false))

/-- 10_state R22 to R38: the words a read of a register gives while `BUSY` = 0, the windows apart. -/
def Obligations.RegisterValues : Prop :=
  ∀ s : State,
    s.csrValue .id = 0x48554631#32 ∧ (s.csrValue .ctrl).toNat = s.ie.toNat ∧
    (s.csrValue .cmd).toNat = s.lastOp.toNat ∧
    ((s.csrValue .status).getLsbD 0 = s.busy ∧ (s.csrValue .status).getLsbD 1 = s.done ∧
      (s.csrValue .status).getLsbD 2 = decide (s.errCode ≠ 0) ∧
      (s.csrValue .status).getLsbD 3 = decide (s.nodes ≠ []) ∧ (s.csrValue .status).getLsbD 4 = s.ctValid ∧
      ∀ k, 5 ≤ k → (s.csrValue .status).getLsbD k = false) ∧
    (s.csrValue .errcode).toNat = s.errCode.toNat ∧ s.csrValue .errpos = s.errPos ∧ s.csrValue .srcAddr = s.srcAddr ∧
    s.csrValue .srcLen = s.srcLen ∧ s.csrValue .dstAddr = s.dstAddr ∧ s.csrValue .dstCap = s.dstCap ∧
    s.csrValue .outLen = s.outLen ∧ (s.csrValue .pad).toNat = s.pad.toNat ∧
    (s.csrValue .distinct).toNat = (Finset.univ.filter (fun sym : Byte => entry s.freq sym ≠ 0)).card ∧
    (s.csrValue .freqSel).toNat = s.freqSel.toNat ∧ s.csrValue .freqVal = entry s.freq s.freqSel ∧
    (s.nodes.length ≤ 511 → (s.csrValue .nodeCount).toNat = s.nodes.length) ∧
    (s.csrValue .root).toNat = (if s.nodes = [] then 0 else s.root.toNat) ∧
    (s.csrValue .nodeSel).toNat = s.nodeSel.toNat ∧ (s.csrValue .codeSel).toNat = s.codeSel.toNat

/-! ### Interrupt, reset, hazards -/

/-- 60_exceptions R227: `IRQ = CTRL.IE ∧ STATUS.DONE`; a completion raises it when `IE` = 1, success and error alike;
clearing `DONE`, the acceptance of a command, `IE` = 0 and reset lower it. -/
def Obligations.InterruptLine : Prop :=
  ∀ s t : State,
    (s.irq = true ↔ s.ie = true ∧ s.done = true) ∧
    (∀ i, exec i s = .next t → t.irq = s.ie) ∧
    (s.busy = false → hostMove (csrw .status 0x2#32) s = .next t → t.irq = false) ∧
    (∀ v i, s.busy = false → decode v = .ok i → hostMove (csrw .cmd v) s = .next t → t.irq = false) ∧
    (hostMove (csrw .ctrl 0x0#32) s = .next t → t.irq = false) ∧
    (hostMove .hardReset s = .next t → t.irq = false)

/-- 70_reset R261: hardware reset and soft reset have one effect: every component of the core takes its value of
10_state R56, a command in flight is aborted, and bytes outside its destination region are unchanged (all bytes, when no
command that writes a destination is in flight). -/
def Obligations.ResetEffect : Prop :=
  ∀ (s : State) (v : Word), v.getLsbD 1 = true →
    ∃ t, hostMove .hardReset s = .next t ∧ hostMove (csrw .ctrl v) s = .next t ∧
      t = { State.reset with
        mem := t.mem
        platform := s.platform
        program := s.program
        agenda := s.agenda
        readLog := s.readLog
        draws := t.draws } ∧
      SameMemoryButDestination s t ∧
      ((∀ i, s.inFlight = some i → (cmdInfo i).writesDst = false) → SameMemory s t) ∧
      t.irq = false ∧ t.csrValue .id = 0x48554631#32

/-- 10_state R56: the reset values, register by register, in the reset state and after the reset input; "Memory is not
reset" (with a command in flight see `ResetEffect`). -/
def Obligations.ResetValues : Prop :=
  (∀ s t : State, s.inFlight = none → hostMove .hardReset s = .next t → t.mem = s.mem) ∧
  ∀ t : State, (t = State.reset ∨ ∃ s, hostMove .hardReset s = .next t) →
    t.ie = false ∧ t.busy = false ∧ t.done = false ∧ t.lastOp = 0 ∧ t.errCode = 0 ∧ t.errPos = 0 ∧ t.srcAddr = 0 ∧
      t.srcLen = 0 ∧ t.dstAddr = 0 ∧ t.dstCap = 0 ∧ t.outLen = 0 ∧ t.pad = 0 ∧ t.freqSel = 0 ∧ t.nodeSel = 0 ∧
      t.codeSel = 0 ∧ (∀ sym, entry t.freq sym = 0) ∧ t.distinct = 0 ∧ t.nodeCount = 0 ∧ t.root = 0 ∧
      t.treeValid = false ∧ (∀ sym, entry t.ct sym = none) ∧ t.ctValid = false ∧ t.curOp = none ∧ t.snap = none ∧
      t.irq = false ∧ t.csrValue .id = 0x48554631#32

/-- Host accesses to memory. 70_reset R265: while a command is in flight, a host write to an active region and a host read of the active
destination region are the fault `HAZARD`; a host read of the source region answers the byte; other memory is free to
use, and so is all memory while nothing is in flight (70_reset R272). A byte access inside the CSR window is refused: the
model's choice, log entry 8. -/
def Obligations.HazardWhileBusy : Prop :=
  (∀ (s : State) (a : Word) (b : Byte), s.csrWindow.contains a.toNat = true →
    hostMove (.memRead a) s = .refused .csrAccess ∧ hostMove (.memWrite a b) s = .refused .csrAccess) ∧
  (∀ (s : State) (a : Word) (b : Byte), s.inFlight = none → s.csrWindow.contains a.toNat = false →
    hostMove (.memRead a) s = .next { s with readLog := .mem a (Memory.read s.mem a.toNat) :: s.readLog } ∧
      ∃ t, hostMove (.memWrite a b) s = .next t ∧ t = { s with mem := t.mem } ∧
        ∀ x, Memory.read t.mem x = if x = a.toNat then b else Memory.read s.mem x) ∧
  ∀ (s : State) (i : Instr) (a : Word) (b : Byte), s.inFlight = some i → s.csrWindow.contains a.toNat = false →
    (((cmdInfo i).readsSrc = true ∧ s.srcAddr.toNat ≤ a.toNat ∧ a.toNat < s.srcAddr.toNat + s.srcLen.toNat) ∨
        ((cmdInfo i).writesDst = true ∧ s.dstAddr.toNat ≤ a.toNat ∧ a.toNat < s.dstAddr.toNat + s.dstCap.toNat) →
      hostMove (.memWrite a b) s = .fault (.hazard a)) ∧
    ((cmdInfo i).writesDst = true ∧ s.dstAddr.toNat ≤ a.toNat ∧ a.toNat < s.dstAddr.toNat + s.dstCap.toNat →
      hostMove (.memRead a) s = .fault (.hazard a)) ∧
    (¬((cmdInfo i).writesDst = true ∧ s.dstAddr.toNat ≤ a.toNat ∧ a.toNat < s.dstAddr.toNat + s.dstCap.toNat) →
      hostMove (.memRead a) s = .next { s with readLog := .mem a (Memory.read s.mem a.toNat) :: s.readLog }) ∧
    (¬((cmdInfo i).readsSrc = true ∧ s.srcAddr.toNat ≤ a.toNat ∧ a.toNat < s.srcAddr.toNat + s.srcLen.toNat) →
      ¬((cmdInfo i).writesDst = true ∧ s.dstAddr.toNat ≤ a.toNat ∧ a.toNat < s.dstAddr.toNat + s.dstCap.toNat) →
      ∃ t, hostMove (.memWrite a b) s = .next t ∧ t = { s with mem := t.mem } ∧
        ∀ x, Memory.read t.mem x = if x = a.toNat then b else Memory.read s.mem x)

/-! ### Start checks, completion, write sets -/

/-- 60_exceptions R222: the checks in their order, the first that fails deciding the error. A start-check error
changes nothing but the completion record (R224 (a), (c)). That it is decided before the platform's refusals (93 U5, U9)
is the model's reading, log entry 15. -/
def Obligations.StartChecksInOrder : Prop :=
  ∀ (s : State) (i : Instr),
    let src := i ∈ [Instr.compress, .decompress, .count, .deserialize, .encode, .decode, .packbits, .unpackbits]
    let dst := i ∈ [Instr.compress, .decompress, .serialize, .encode, .decode, .packbits, .unpackbits]
    let srcOut := s.srcAddr.toNat + s.srcLen.toNat > 2 ^ 32
    let dstOut := s.dstAddr.toNat + s.dstCap.toNat > 2 ^ 32
    let overlap := s.srcLen ≠ 0 ∧ s.dstCap ≠ 0 ∧ s.srcAddr.toNat < s.dstAddr.toNat + s.dstCap.toNat ∧
      s.dstAddr.toNat < s.srcAddr.toNat + s.srcLen.toNat
    let failsWith := fun (code : Byte) => exec i s = .next
      { s with
        outLen := 0
        errCode := code
        errPos := 0
        busy := false
        done := true
        curOp := none
        snap := none }
    (∀ v, s.busy = false → (¬∃ j, decode v = .ok j) →
      ∃ t, hostMove (csrw .cmd v) s = .next t ∧ t.errCode = 0x01#8 ∧ t.busy = false) ∧
    (src → srcOut → failsWith 0x02#8) ∧
    (dst → dstOut → ¬(src ∧ srcOut) → failsWith 0x03#8) ∧
    (src → dst → overlap → ¬srcOut → ¬dstOut → failsWith 0x04#8)

/-- 93 U5, U9: after the start checks, a command is refused exactly when one of its active regions meets the CSR window
or holds an address that can fail. When the refusal falls, that the start checks come first, that an empty region meets
nothing and which name wins are the model's choices, log entry 15. -/
def Obligations.PlatformRefusals : Prop :=
  ∀ (s : State) (i : Instr),
    let active := fun (q : Region) =>
      ((cmdInfo i).readsSrc = true ∧ q = s.srcRegion) ∨ ((cmdInfo i).writesDst = true ∧ q = s.dstRegion)
    let meets := fun (r : Region) => ∃ q, active q ∧ ∃ a, q.contains a = true ∧ r.contains a = true
    (startCheck (cmdInfo i) s = none → meets s.csrWindow → exec i s = .refused .regionCoversCsrWindow) ∧
    (startCheck (cmdInfo i) s = none → ¬meets s.csrWindow → (∃ f ∈ s.platform.failing, meets f) →
      exec i s = .refused .memoryCanFail) ∧
    (∀ r, exec i s = .refused r → startCheck (cmdInfo i) s = none ∧
      (meets s.csrWindow ∨ ∃ f ∈ s.platform.failing, meets f))

/-- 60_exceptions R224: the effects of an error. -/
def Obligations.ErrorEffects : Prop :=
  ∀ (s t : State) (i : Instr), exec i s = .next t → t.errCode ≠ 0 →
    t.outLen = 0 ∧ t.busy = false ∧ t.done = true ∧ t.err = true ∧ t.curOp = none ∧ t.snap = none ∧
      SameConfig s t ∧ SameSurroundings s t ∧
      (t.errCode ∈ [0x02#8, 0x03#8, 0x04#8] →
        t.freq = s.freq ∧ SameTree s t ∧ SameCodeTable s t ∧ t.pad = s.pad ∧ SameMemory s t) ∧
      (t.errCode ∉ [0x02#8, 0x03#8, 0x04#8] →
        (i ∈ [Instr.compress, .count] → ∀ sym, entry t.freq sym = 0) ∧
        (i ∉ [Instr.compress, .count] → t.freq = s.freq) ∧
        (i ∈ [Instr.compress, .decompress, .build, .deserialize] → TreeCleared t) ∧
        (i ∉ [Instr.compress, .decompress, .build, .deserialize] → SameTree s t) ∧
        (i ∈ [Instr.compress, .decompress, .build, .codegen, .deserialize] → CodeTableCleared t) ∧
        (i ∉ [Instr.compress, .decompress, .build, .codegen, .deserialize] → SameCodeTable s t) ∧
        (i ∈ [Instr.compress, .decompress, .encode, .packbits] → t.pad = 0) ∧
        (i ∉ [Instr.compress, .decompress, .encode, .packbits] → t.pad = s.pad) ∧
        SameMemoryButDestination s t ∧
        (i ∈ [Instr.count, .build, .codegen, .deserialize] → SameMemory s t))

/-- 20_memory R74: in every outcome only the destination region is written, never the source region; after success
the output of the command's pseudocode stands at `DST_ADDR`, `OUT_LEN` is its length, and the rest of the region is
unchanged. 60_exceptions R225: the pseudocode's writes are applied, `ERRCODE` = 0, `ERRPOS` = 0, `BUSY` = 0, `DONE` = 1. -/
def Obligations.DestinationWrites : Prop :=
  ∀ (s t : State) (i : Instr), exec i s = .next t →
    SameMemoryButDestination s t ∧
    (i ∈ [Instr.count, .build, .codegen, .deserialize] → SameMemory s t) ∧
    ((cmdInfo i).readsSrc = true → ∀ a, s.srcRegion.contains a = true →
      Memory.read t.mem a = Memory.read s.mem a) ∧
    (t.errCode = 0 →
      ∃ (s' : State) (out : List Byte), bodyOf i s (s.snap.getD []) = .ok (s', out) ∧
        t.freq = s'.freq ∧ SameTree s' t ∧ SameCodeTable s' t ∧ t.pad = s'.pad ∧
        out.length ≤ s.dstCap.toNat ∧ t.outLen.toNat = out.length ∧ OutputIs s t out ∧
        SameMemoryButOutput s t out.length ∧ t.errPos = 0 ∧ t.busy = false ∧ t.done = true)

/-- 30_encoding R93: a command writes only the state in its write set and the completion record; the tables and
registers of no write set are unchanged, whatever the outcome. -/
def Obligations.WriteSets : Prop :=
  ∀ (s t : State) (i : Instr), exec i s = .next t →
    SameConfig s t ∧ SameSurroundings s t ∧
      (i ∉ [Instr.compress, .count] → t.freq = s.freq) ∧
      (i ∉ [Instr.compress, .decompress, .build, .deserialize] → SameTree s t) ∧
      (i ∉ [Instr.compress, .decompress, .build, .codegen, .deserialize] → SameCodeTable s t) ∧
      (i ∉ [Instr.compress, .decompress, .encode, .packbits] → t.pad = s.pad)

/-- 20_memory R73: "The result of a command is a function of `S`": memory outside the snapshot has no part in it. -/
def Obligations.ResultDependsOnlyOnTheSnapshot : Prop :=
  ∀ (s t : State) (i : Instr) (m : Memory), exec i s = .next t →
    ∃ t', exec i { s with mem := m } = .next t' ∧ { t' with mem := [] } = { t with mem := [] } ∧
      (t.errCode = 0 → Memory.readRange t'.mem s.dstAddr.toNat t.outLen.toNat =
        Memory.readRange t.mem s.dstAddr.toNat t.outLen.toNat)

/-- Every command completes: with an arena that meets 10_state R51 and no ground of 93 U5 and U9 to refuse it, its completion step answers a next state, idle and done (30_encoding R105). -/
def Obligations.EveryCommandCompletes : Prop :=
  ∀ (s : State) (i : Instr), ArenaOk s.nodes s.root → platformCheck (cmdInfo i) s = none →
    ∃ t, exec i s = .next t ∧ t.busy = false ∧ t.done = true

/-! ### COUNT and BUILD -/

/-- 40_count_build R110: COUNT. -/
def Obligations.CountResult : Prop :=
  ∀ (s : State) (S : List Byte), SourceIs s S → CanRun .count s →
    ∃ t, exec .count s = .next t ∧ (∀ sym, (entry t.freq sym).toNat = S.count sym) ∧
      t.distinct = S.dedup.length ∧ t.completedWith 0 0 0 ∧ SameTree s t ∧ SameCodeTable s t ∧ t.pad = s.pad ∧
      t.mem = s.mem ∧ t.draws = s.draws ∧ SameConfig s t ∧ SameSurroundings s t

/-- 40_count_build R111, R113: BUILD of counts whose sum fits 32 bits (an invariant, `StepKeepsCounts`): the leaves in
ascending symbol order, then internal nodes, each of weight the sum of its children's, the root last with the sum of all
counts; one binary tree; the code table cleared. When every count is 0, `EMPTY_FREQ`, and "On that error the tree and
the code table are cleared". -/
def Obligations.BuildResult : Prop :=
  (∀ s : State, presentSymbols s.freq ≠ [] → totalCount s.freq ≤ 0xFFFFFFFF →
    ∃ t, exec .build s = .next t ∧
      t.nodes.length = 2 * (presentSymbols s.freq).length - 1 ∧
      t.nodes.take (presentSymbols s.freq).length =
        (presentSymbols s.freq).map (fun sym => .leaf sym (entry s.freq sym)) ∧
      (∀ (k : Nat) (w : Word) (l r : NodeIndex), t.nodes[k]? = some (.internal w l r) →
        ∃ a b : Node, t.nodes[l.toNat]? = some a ∧ t.nodes[r.toNat]? = some b ∧ l.toNat < k ∧ r.toNat < k ∧
          w.toNat = a.weight.toNat + b.weight.toNat) ∧
      leafCount t.nodes = (presentSymbols s.freq).length ∧
      t.root.toNat = t.nodes.length - 1 ∧
      (∃ n : Node, t.nodes[t.root.toNat]? = some n ∧ n.weight.toNat = totalCount s.freq) ∧
      ArenaOk t.nodes t.root ∧ CodeTableCleared t ∧ t.completedWith 0 0 0 ∧ t.freq = s.freq ∧ t.pad = s.pad ∧
      t.mem = s.mem ∧ t.draws = s.draws ∧ SameConfig s t ∧ SameSurroundings s t) ∧
  (∀ s : State, (∀ sym, entry s.freq sym = 0) →
    ∃ t, exec .build s = .next t ∧ t.completedWith 0 0x10#8 0 ∧ TreeCleared t ∧ CodeTableCleared t ∧ t.freq = s.freq ∧
      t.pad = s.pad ∧ t.mem = s.mem ∧ SameConfig s t ∧ SameSurroundings s t)

/-- 40_count_build R112: at each merge the left child is `PqMin(Q)` and the right child `PqMin` of the rest, in the
order of `(weight, index)`. `Q` before node `k` is made holds the nodes below `k` that no node below `k` has as a
child. -/
def Obligations.MergeTakesTheTwoLeast : Prop :=
  ∀ (s t : State), totalCount s.freq ≤ 0xFFFFFFFF → exec .build s = .next t →
    ∀ (k : Nat) (w : Word) (a b : NodeIndex), t.nodes[k]? = some (.internal w a b) →
      let inQ := fun (j : Nat) => j < k ∧ ∀ n ∈ t.nodes.take k, Node.hasChild j n = false
      let weight := fun (j : Nat) => ((t.nodes[j]?).map (fun n => n.weight.toNat)).getD 0
      let before := fun (x y : Nat) => weight x < weight y ∨ (weight x = weight y ∧ x ≤ y)
      inQ a.toNat ∧ (∀ j, inQ j → before a.toNat j) ∧
        inQ b.toNat ∧ b ≠ a ∧ (∀ j, inQ j → j ≠ a.toNat → before b.toNat j)

/-- 40_count_build R113: minimal weighted path length: no binary prefix code of the present symbols is shorter, weighted
by the counts, than the codes of the tree BUILD writes. -/
def Obligations.BuiltTreeIsOptimal : Prop :=
  ∀ s : State, 2 ≤ (presentSymbols s.freq).length → totalCount s.freq ≤ 0xFFFFFFFF →
    ∃ t ct, exec .build s = .next t ∧ codes t.nodes t.root = .ok ct ∧
      (∀ sym ∈ presentSymbols s.freq, (entry ct sym).isSome = true) ∧
      ∀ c : Byte → Bits,
        (∀ x ∈ presentSymbols s.freq, ∀ y ∈ presentSymbols s.freq, x ≠ y → ¬(c x <+: c y)) →
        ((presentSymbols s.freq).map
            (fun sym => (entry s.freq sym).toNat * ((entry ct sym).getD []).length)).sum ≤
          ((presentSymbols s.freq).map (fun sym => (entry s.freq sym).toNat * (c sym).length)).sum

/-! ### CODEGEN and the laws of codes -/

/-- 41_codegen R130, R131: CODEGEN of a tree of distinct symbols: the code of a symbol is the path from the root to
its leaf. -/
def Obligations.CodegenResult : Prop :=
  ∀ s : State, ArenaOk s.nodes s.root → s.nodes ≠ [] → (leafSymbols s.nodes).Nodup →
    ∃ t, exec .codegen s = .next t ∧
      (∀ sym code, entry t.ct sym = some code ↔ LeadsToLeaf s.nodes s.root code sym) ∧ t.ctValid = true ∧
      t.completedWith 0 0 0 ∧ SameTree s t ∧ t.freq = s.freq ∧ t.pad = s.pad ∧ t.mem = s.mem ∧ t.draws = s.draws ∧
      SameConfig s t ∧ SameSurroundings s t

/-- 41_codegen R130, R131: `NO_TREE` of an empty arena; `DUP_SYMBOL` with the second occurrence in left-first
pre-order; on either the code table is cleared and the tree is kept. -/
def Obligations.CodegenErrors : Prop :=
  (∀ s : State, s.nodes = [] →
    ∃ t, exec .codegen s = .next t ∧ t.completedWith 0 0x11#8 0 ∧ CodeTableCleared t ∧ SameTree s t ∧
      t.freq = s.freq ∧ t.mem = s.mem) ∧
  (∀ (s : State) (tr : Tree) (before after : List Byte) (sym : Byte), arenaTree s.nodes s.root = some tr →
    tr.leafSyms = before ++ sym :: after → before.Nodup → sym ∈ before →
    ∃ t, exec .codegen s = .next t ∧ t.completedWith 0 0x12#8 sym.toNat ∧ CodeTableCleared t ∧ SameTree s t ∧
      t.freq = s.freq ∧ t.mem = s.mem)

/-- 41_codegen R133: the prefix-free property, for a tree with at least two leaves. -/
def Obligations.CodesArePrefixFree : Prop :=
  ∀ (nodes : List Node) (root : NodeIndex) (t : CodeTable), ArenaOk nodes root → 2 ≤ leafCount nodes →
    codes nodes root = .ok t →
    (∀ x y c d, x ≠ y → entry t x = some c → entry t y = some d → ¬(c <+: d)) ∧
      (∀ x c, entry t x = some c → c ≠ [])

/-- 41_codegen R134: "Every code `Codes` produces has length at most 255". -/
def Obligations.CodeLengthBound : Prop :=
  ∀ (nodes : List Node) (root : NodeIndex) (t : CodeTable), ArenaOk nodes root → codes nodes root = .ok t →
    ∀ sym c, entry t sym = some c → c.length ≤ 255

/-! ### SERIALIZE and DESERIALIZE -/

/-- 42_serializer R140, R141: SERIALIZE writes the tree text's bytes, or reports the length needed; an empty arena
gives an empty output. -/
def Obligations.SerializeResult : Prop :=
  (∀ (s : State) (tr : Tree), arenaTree s.nodes s.root = some tr → CanRun .serialize s →
    (tr.ser.length ≤ s.dstCap.toNat →
      ∃ t, exec .serialize s = .next t ∧ t.completedWith tr.ser.length 0 0 ∧ OutputIs s t tr.ser ∧
        SameMemoryButOutput s t tr.ser.length ∧ t.freq = s.freq ∧ SameTree s t ∧ SameCodeTable s t ∧ t.pad = s.pad ∧
        t.draws = s.draws ∧ SameConfig s t ∧ SameSurroundings s t) ∧
    (s.dstCap.toNat < tr.ser.length →
      ∃ t, exec .serialize s = .next t ∧ t.completedWith 0 0x05#8 (sat32 tr.ser.length) ∧
        SameMemoryButDestination s t ∧ t.freq = s.freq ∧ SameTree s t ∧ SameCodeTable s t ∧ t.pad = s.pad)) ∧
  (∀ s : State, s.nodes = [] → CanRun .serialize s →
    ∃ t, exec .serialize s = .next t ∧ t.completedWith 0 0 0 ∧ t.mem = s.mem ∧ SameTree s t)

/-- 42_serializer R141: `|Ser()| = (L − 1) + 2·L + (number of leaves with symbol ≥ 0x80)`, "at most ... 1023, and at
most 895 for a tree of distinct symbols". -/
def Obligations.SerializedLength : Prop :=
  ∀ (nodes : List Node) (root : NodeIndex) (out : List Byte), ArenaOk nodes root → nodes ≠ [] →
    ser nodes root = .ok out →
    out.length = (leafCount nodes - 1) + 2 * leafCount nodes +
        (leafSymbols nodes).countP (fun sym => decide (0x80 ≤ sym.toNat)) ∧
      out.length ≤ 1023 ∧ ((leafSymbols nodes).Nodup → out.length ≤ 895)

/-- 42_serializer R145: "`Ser()` contains a byte 0x00 exactly when some leaf has symbol 0x00". -/
def Obligations.SerializedZeroBytes : Prop :=
  ∀ (nodes : List Node) (root : NodeIndex) (out : List Byte), ArenaOk nodes root → ser nodes root = .ok out →
    (0x00#8 ∈ out ↔ 0x00#8 ∈ leafSymbols nodes)

/-- 42_serializer R144: the inverse law, at the level of the functions: for every non-empty arena `Deser(Ser(), base)`
gives an isomorphic tree, weights 0 and indices in pre-order; for the empty arena it raises `TREE_EXHAUSTED`. -/
def Obligations.DeserInvertsSer : Prop :=
  ∀ (nodes : List Node) (root : NodeIndex) (base : Nat), ArenaOk nodes root →
    (nodes ≠ [] → ∃ tr out nodes' tr', arenaTree nodes root = some tr ∧ ser nodes root = .ok out ∧
      deser out base = .ok nodes' ∧ arenaTree nodes' 0 = some tr' ∧ tr'.shape = tr.shape ∧
      (∀ n ∈ nodes', n.weight = 0) ∧ tr'.indices = List.range nodes'.length) ∧
    (nodes = [] → ser nodes root = .ok [] ∧ deser [] base = .error (.error .treeExhausted base))

/-- 42_serializer R142, R144: DESERIALIZE of the tree text of an arena. -/
def Obligations.DeserializeResult : Prop :=
  ∀ (s : State) (nodes : List Node) (root : NodeIndex) (tr : Tree) (S : List Byte), ArenaOk nodes root →
    arenaTree nodes root = some tr → ser nodes root = .ok S → s.snap = some S → CanRun .deserialize s →
    ∃ t tr', exec .deserialize s = .next t ∧ arenaTree t.nodes t.root = some tr' ∧ tr'.shape = tr.shape ∧
      t.root = 0 ∧ (∀ n ∈ t.nodes, n.weight = 0) ∧ CodeTableCleared t ∧ t.completedWith 0 0 0 ∧ t.freq = s.freq ∧
      t.pad = s.pad ∧ t.mem = s.mem ∧ t.draws = s.draws ∧ SameConfig s t ∧ SameSurroundings s t

/-- 42_serializer R142, R143; 30_encoding R97: what DESERIALIZE does with every source. A text of one whole tree of at
most 511 nodes is accepted, its symbols the code points' low 8 bits; any other source raises the error of R143 at its
offset, the tree and the code table cleared; every source is one or the other. -/
def Obligations.DeserializeErrors : Prop :=
  ∀ (s : State) (S : List Byte), SourceIs s S → CanRun .deserialize s →
    (∀ chars n, TextAccepted S chars n →
      ∃ t, exec .deserialize s = .next t ∧ t.completedWith 0 0 0 ∧ ArenaOk t.nodes t.root ∧ t.nodes.length = n ∧
        leafSymbols t.nodes = (textSymbols chars).map (BitVec.ofNat 8)) ∧
    (∀ code pos, TextError S 0 code pos →
      ∃ t, exec .deserialize s = .next t ∧ t.completedWith 0 code pos ∧ TreeCleared t ∧ CodeTableCleared t ∧
        t.freq = s.freq ∧ t.pad = s.pad ∧ t.mem = s.mem) ∧
    ((∃ chars n, TextAccepted S chars n) ∨ ∃ code pos, TextError S 0 code pos ∧ pos ≤ S.length) ∧
    (S = [] → ∃ t, exec .deserialize s = .next t ∧ t.completedWith 0 0x22#8 0)

/-! ### The bitstream -/

/-- 30_encoding R98, 43_bitstream R170, R177: the packed bytes, bit by bit, and the padding count; the packer/unpacker
inverse law. -/
def Obligations.PackAndUnpack : Prop :=
  ∀ bits : Bits,
    ((pack bits).2 = (8 - bits.length % 8) % 8 ∧ (pack bits).1.length = (bits.length + 7) / 8 ∧
      ∀ (j m : Nat) (b : Byte), m < 8 → (pack bits).1[j]? = some b →
        b.getLsbD (7 - m) = bits.getD (8 * j + m) false) ∧
    (pack bits).2 ≤ 7 ∧ (pack bits).2 ≤ 8 * (pack bits).1.length ∧ unpack (pack bits).1 (pack bits).2 = .ok bits

/-- 43_bitstream R173: PACKBITS of a bit-per-byte source, and its errors. -/
def Obligations.PackbitsResult : Prop :=
  (∀ (s : State) (bits : Bits), s.snap = some (bits.map (fun b => if b then 0x01#8 else 0x00#8)) →
    CanRun .packbits s →
    ((bits.length + 7) / 8 ≤ s.dstCap.toNat →
      ∃ t, exec .packbits s = .next t ∧ t.completedWith ((bits.length + 7) / 8) 0 0 ∧
        t.pad.toNat = (8 - bits.length % 8) % 8 ∧
        (∀ j m, j < (bits.length + 7) / 8 → m < 8 →
          (Memory.read t.mem (s.dstAddr.toNat + j)).getLsbD (7 - m) = bits.getD (8 * j + m) false) ∧
        SameMemoryButOutput s t ((bits.length + 7) / 8) ∧ t.freq = s.freq ∧ SameTree s t ∧ SameCodeTable s t ∧
        t.draws = s.draws ∧ SameConfig s t ∧ SameSurroundings s t) ∧
    (s.dstCap.toNat < (bits.length + 7) / 8 →
      ∃ t, exec .packbits s = .next t ∧ t.completedWith 0 0x05#8 (sat32 ((bits.length + 7) / 8)) ∧ t.pad = 0)) ∧
  (∀ (s : State) (before after : List Byte) (x : Byte), SourceIs s (before ++ x :: after) → CanRun .packbits s →
    (∀ y ∈ before, y.toNat ≤ 1) → 1 < x.toNat →
    ∃ t, exec .packbits s = .next t ∧ t.completedWith 0 0x14#8 before.length ∧ t.pad = 0 ∧
      SameMemoryButDestination s t ∧ t.freq = s.freq ∧ SameTree s t ∧ SameCodeTable s t)

/-- 43_bitstream R174: UNPACKBITS: one byte per payload bit, most significant bit first, the last `PAD` bits dropped;
`PAD_RANGE`; `DST_OVERFLOW`. -/
def Obligations.UnpackbitsResult : Prop :=
  ∀ (s : State) (S : List Byte), s.snap = some S → CanRun .unpackbits s →
    (s.pad.toNat ≤ 7 → s.pad.toNat ≤ 8 * S.length → 8 * S.length - s.pad.toNat ≤ s.dstCap.toNat →
      ∃ t, exec .unpackbits s = .next t ∧ t.completedWith (8 * S.length - s.pad.toNat) 0 0 ∧
        (∀ k, k < 8 * S.length - s.pad.toNat →
          Memory.read t.mem (s.dstAddr.toNat + k) =
            if (S.getD (k / 8) 0).getLsbD (7 - k % 8) then 0x01#8 else 0x00#8) ∧
        SameMemoryButOutput s t (8 * S.length - s.pad.toNat) ∧ t.pad = s.pad ∧ t.freq = s.freq ∧ SameTree s t ∧
        SameCodeTable s t ∧ t.draws = s.draws ∧ SameConfig s t ∧ SameSurroundings s t) ∧
    (s.pad.toNat ≤ 7 → s.pad.toNat ≤ 8 * S.length → s.dstCap.toNat < 8 * S.length - s.pad.toNat →
      ∃ t, exec .unpackbits s = .next t ∧ t.completedWith 0 0x05#8 (sat32 (8 * S.length - s.pad.toNat)) ∧
        t.pad = s.pad) ∧
    (7 < s.pad.toNat ∨ 8 * S.length < s.pad.toNat →
      ∃ t, exec .unpackbits s = .next t ∧ t.completedWith 0 0x26#8 0 ∧ t.pad = s.pad)

/-- 43_bitstream R175: ENCODE packs the codes of the source bytes in order; `NO_CODE` at the first byte without a
code; `DST_OVERFLOW`. -/
def Obligations.EncodeResult : Prop :=
  (∀ (s : State) (S : List Byte) (bits : Bits), s.snap = some S → CanRun .encode s →
    (∀ y ∈ S, (entry s.ct y).isSome = true) → bits = S.flatMap (fun y => (entry s.ct y).getD []) →
    ((bits.length + 7) / 8 ≤ s.dstCap.toNat →
      ∃ t, exec .encode s = .next t ∧ t.completedWith ((bits.length + 7) / 8) 0 0 ∧
        t.pad.toNat = (8 - bits.length % 8) % 8 ∧
        (∀ j m, j < (bits.length + 7) / 8 → m < 8 →
          (Memory.read t.mem (s.dstAddr.toNat + j)).getLsbD (7 - m) = bits.getD (8 * j + m) false) ∧
        SameMemoryButOutput s t ((bits.length + 7) / 8) ∧ t.freq = s.freq ∧ SameTree s t ∧ SameCodeTable s t ∧
        t.draws = s.draws ∧ SameConfig s t ∧ SameSurroundings s t) ∧
    (s.dstCap.toNat < (bits.length + 7) / 8 →
      ∃ t, exec .encode s = .next t ∧ t.completedWith 0 0x05#8 (sat32 ((bits.length + 7) / 8)) ∧ t.pad = 0)) ∧
  (∀ (s : State) (before after : List Byte) (x : Byte), SourceIs s (before ++ x :: after) → CanRun .encode s →
    (∀ y ∈ before, (entry s.ct y).isSome = true) → entry s.ct x = none →
    ∃ t, exec .encode s = .next t ∧ t.completedWith 0 0x13#8 before.length ∧ t.pad = 0 ∧
      SameMemoryButDestination s t ∧ t.freq = s.freq ∧ SameTree s t ∧ SameCodeTable s t)

/-- 43_bitstream R176, R172: DECODE of the packed paths of a list of leaves gives their symbols, or the number of
symbols when the destination is too small. -/
def Obligations.DecodeResult : Prop :=
  ∀ (s : State) (leaves : List (Byte × Bits)), ArenaOk s.nodes s.root → 2 ≤ leafCount s.nodes →
    (∀ p ∈ leaves, LeadsToLeaf s.nodes s.root p.2 p.1) →
    s.snap = some (pack (leaves.flatMap (fun p => p.2))).1 →
    s.pad.toNat = (pack (leaves.flatMap (fun p => p.2))).2 → CanRun .decode s →
    (leaves.length ≤ s.dstCap.toNat →
      ∃ t, exec .decode s = .next t ∧ t.completedWith leaves.length 0 0 ∧
        OutputIs s t (leaves.map (fun p => p.1)) ∧ SameMemoryButOutput s t leaves.length ∧ t.freq = s.freq ∧
        SameTree s t ∧ SameCodeTable s t ∧ t.pad = s.pad ∧ t.draws = s.draws ∧ SameConfig s t ∧
        SameSurroundings s t) ∧
    (s.dstCap.toNat < leaves.length →
      ∃ t, exec .decode s = .next t ∧ t.completedWith 0 0x05#8 (sat32 leaves.length) ∧ t.pad = s.pad ∧
        t.freq = s.freq ∧ SameTree s t ∧ SameCodeTable s t ∧ SameMemoryButDestination s t)

/-- 43_bitstream R176, R172: the errors of DECODE: `NO_TREE`, then `PAD_RANGE`, then `WALK_NO_CHILD` at bit 0 of a
degenerate tree, or `WALK_INCOMPLETE` when the bits end at an internal node below the root. -/
def Obligations.DecodeErrors : Prop :=
  ∀ (s : State) (S : List Byte), SourceIs s S → CanRun .decode s → ArenaOk s.nodes s.root →
    (s.nodes = [] → ∃ t, exec .decode s = .next t ∧ t.completedWith 0 0x11#8 0) ∧
    (s.nodes ≠ [] → 7 < s.pad.toNat ∨ 8 * S.length < s.pad.toNat →
      ∃ t, exec .decode s = .next t ∧ t.completedWith 0 0x26#8 0) ∧
    (leafCount s.nodes = 1 → s.pad.toNat ≤ 7 → s.pad.toNat < 8 * S.length →
      ∃ t, exec .decode s = .next t ∧ t.completedWith 0 0x27#8 0) ∧
    (leafCount s.nodes = 1 → s.pad.toNat ≤ 7 → s.pad.toNat = 8 * S.length →
      ∃ t, exec .decode s = .next t ∧ t.completedWith 0 0 0) ∧
    (∀ (leaves : List (Byte × Bits)) (rest : Bits) (m : Nat) (w : Word) (l r : NodeIndex), 2 ≤ leafCount s.nodes →
      (∀ p ∈ leaves, LeadsToLeaf s.nodes s.root p.2 p.1) → rest ≠ [] →
      follow s.nodes s.root.toNat rest = some m → s.nodes[m]? = some (.internal w l r) →
      S = (pack (leaves.flatMap (fun p => p.2) ++ rest)).1 →
      s.pad.toNat = (pack (leaves.flatMap (fun p => p.2) ++ rest)).2 →
      ∃ t, exec .decode s = .next t ∧
        t.completedWith 0 0x28#8 (sat32 (leaves.flatMap (fun p => p.2) ++ rest).length))

/-- 43_bitstream R178: the decoder inverts the encoder. -/
def Obligations.WalkInvertsCodes : Prop :=
  ∀ (nodes : List Node) (root : NodeIndex) (t : CodeTable) (x : List Byte), ArenaOk nodes root → nodes ≠ [] →
    codes nodes root = .ok t → (∀ y ∈ x, (lookupCode t y).isSome = true) →
    (2 ≤ leafCount nodes → walk nodes root (x.flatMap (fun y => (lookupCode t y).getD [])) = .ok x) ∧
    (leafCount nodes = 1 → x.flatMap (fun y => (lookupCode t y).getD []) = [] ∧ walk nodes root [] = .ok [])

/-! ### COMPRESS and DECOMPRESS -/

/-- 44_container R200, R206: COMPRESS of a non-empty source writes `FREQ`, the tree of BUILD, its code table and the
container `⟨pad⟩ ++ Ser() ++ ⟨0⟩ ++ payload`, or reports the length needed and clears all of them. -/
def Obligations.CompressResult : Prop :=
  ∀ (s : State) (x : List Byte), SourceIs s x → x ≠ [] → CanRun .compress s →
    ∃ (nodes : List Node) (root : NodeIndex) (ct : CodeTable) (T c : List Byte),
      buildTree (countTable x) = .ok (nodes, root) ∧ ArenaOk nodes root ∧ codes nodes root = .ok ct ∧
      ser nodes root = .ok T ∧ (∀ y ∈ x, (entry ct y).isSome = true) ∧
      c = BitVec.ofNat 8 (pack (x.flatMap (fun y => (entry ct y).getD []))).2 ::
        (T ++ 0x00#8 :: (pack (x.flatMap (fun y => (entry ct y).getD []))).1) ∧
      (c.length ≤ s.dstCap.toNat →
        ∃ t, exec .compress s = .next t ∧ t.completedWith c.length 0 0 ∧ OutputIs s t c ∧
          SameMemoryButOutput s t c.length ∧ (∀ sym, (entry t.freq sym).toNat = x.count sym) ∧ t.nodes = nodes ∧
          t.root = root ∧ t.ct = ct ∧ t.ctValid = true ∧ c.head? = some t.pad ∧ t.pad.toNat ≤ 7 ∧
          t.draws = s.draws ∧ SameConfig s t ∧ SameSurroundings s t) ∧
      (s.dstCap.toNat < c.length →
        ∃ t, exec .compress s = .next t ∧ t.completedWith 0 0x05#8 (sat32 c.length) ∧
          (∀ sym, entry t.freq sym = 0) ∧ TreeCleared t ∧ CodeTableCleared t ∧ t.pad = 0 ∧
          SameMemoryButDestination s t)

/-- 44_container R204: the empty identity, whatever `DST_CAP` is. -/
def Obligations.EmptyIdentity : Prop :=
  ∀ (s : State) (i : Instr), s.snap = some [] → i = .compress ∨ i = .decompress → CanRun i s →
    ∃ t, exec i s = .next t ∧ t.completedWith 0 0 0 ∧ t.mem = s.mem ∧ t.pad = 0 ∧ TreeCleared t ∧ CodeTableCleared t ∧
      (i = .compress → ∀ sym, entry t.freq sym = 0) ∧ (i = .decompress → t.freq = s.freq)

/-- 44_container R201: DECOMPRESS of the container of any tree without the symbol 0x00 and any sequence of its leaves'
paths gives the leaves' symbols, the container's tree and its padding count; or the number of symbols when the
destination is too small, the tree, the code table and `PAD` cleared. -/
def Obligations.DecompressResult : Prop :=
  ∀ (s : State) (nodes : List Node) (root : NodeIndex) (tr : Tree) (T : List Byte) (leaves : List (Byte × Bits)),
    ArenaOk nodes root → 2 ≤ leafCount nodes → 0x00#8 ∉ leafSymbols nodes → arenaTree nodes root = some tr →
    ser nodes root = .ok T → (∀ p ∈ leaves, LeadsToLeaf nodes root p.2 p.1) →
    s.snap = some (container (pack (leaves.flatMap (fun p => p.2))).2 T (pack (leaves.flatMap (fun p => p.2))).1) →
    CanRun .decompress s →
    (leaves.length ≤ s.dstCap.toNat →
      ∃ t tr', exec .decompress s = .next t ∧ t.completedWith leaves.length 0 0 ∧
        OutputIs s t (leaves.map (fun p => p.1)) ∧ SameMemoryButOutput s t leaves.length ∧
        arenaTree t.nodes t.root = some tr' ∧ tr'.shape = tr.shape ∧ t.root = 0 ∧ CodeTableCleared t ∧
        t.pad.toNat = (pack (leaves.flatMap (fun p => p.2))).2 ∧ t.freq = s.freq ∧ t.draws = s.draws ∧
        SameConfig s t ∧ SameSurroundings s t) ∧
    (s.dstCap.toNat < leaves.length →
      ∃ t, exec .decompress s = .next t ∧ t.completedWith 0 0x05#8 (sat32 leaves.length) ∧ TreeCleared t ∧
        CodeTableCleared t ∧ t.pad = 0 ∧ t.freq = s.freq ∧ SameMemoryButDestination s t)

/-- 44_container R201, 60_exceptions R223: the errors of DECOMPRESS in their order: `NO_SEP` when no zero byte stands at
an offset ≥ 1; then the tree text's error of 42_serializer R143 at its container offset; then `PAD_RANGE`; then the
walk's: `WALK_NO_CHILD` at bit 0 of a one-leaf tree, `WALK_INCOMPLETE` when the bits end at an internal node below the
root. Each comes whatever `DST_CAP` is, before `DST_OVERFLOW`; the tree and the code table are cleared and `PAD` = 0. -/
def Obligations.DecompressErrors : Prop :=
  ∀ (s : State) (p : Byte) (rest : List Byte), SourceIs s (p :: rest) → CanRun .decompress s →
    let failsWith := fun (code : Byte) (pos : Nat) =>
      ∃ t, exec .decompress s = .next t ∧ t.completedWith 0 code pos ∧ TreeCleared t ∧ CodeTableCleared t ∧ t.pad = 0 ∧
        t.freq = s.freq ∧ SameMemoryButDestination s t
    (0x00#8 ∉ rest → failsWith 0x20#8 (rest.length + 1)) ∧
    ∀ T B : List Byte, rest = T ++ 0x00#8 :: B → 0x00#8 ∉ T →
      (∀ code pos, TextError T 1 code pos → failsWith code pos) ∧
      (∀ chars n, TextAccepted T chars n →
        (7 < p.toNat ∨ 8 * B.length < p.toNat → failsWith 0x26#8 0) ∧
        (n = 1 → p.toNat ≤ 7 → p.toNat < 8 * B.length → failsWith 0x27#8 0)) ∧
      (∀ (nodes : List Node) (root : NodeIndex) (leaves : List (Byte × Bits)) (last : Bits) (m : Nat) (w : Word)
          (l r : NodeIndex), ArenaOk nodes root → ser nodes root = .ok T →
        (∀ q ∈ leaves, LeadsToLeaf nodes root q.2 q.1) → last ≠ [] → follow nodes root.toNat last = some m →
        nodes[m]? = some (.internal w l r) → B = (pack (leaves.flatMap (fun q => q.2) ++ last)).1 →
        p.toNat = (pack (leaves.flatMap (fun q => q.2) ++ last)).2 →
        failsWith 0x28#8 (sat32 (leaves.flatMap (fun q => q.2) ++ last).length))

/-- 44_container R202: the round trip, for a sequence with at least two distinct byte values, none of them 0x00, over
its container of R200. -/
def Obligations.RoundTrip : Prop :=
  ∀ (s : State) (x : List Byte), SourceIs s x → CanRun .compress s → 2 ≤ x.dedup.length → 0x00#8 ∉ x →
    ∃ c : List Byte, ContainerOf x c ∧
      (c.length ≤ s.dstCap.toNat →
        ∃ t, exec .compress s = .next t ∧ t.completedWith c.length 0 0 ∧ OutputIs s t c) ∧
      (s.dstCap.toNat < c.length →
        ∃ t, exec .compress s = .next t ∧ t.completedWith 0 0x05#8 (sat32 c.length)) ∧
      (∀ u : State, u.snap = some c → CanRun .decompress u → x.length ≤ u.dstCap.toNat →
        ∃ v, exec .decompress u = .next v ∧ v.completedWith x.length 0 0 ∧ OutputIs u v x)

/-- 44_container R203: the zero-symbol failure of the container of R200. -/
def Obligations.ZeroSymbolFailure : Prop :=
  ∀ (s : State) (x : List Byte), SourceIs s x → CanRun .compress s → 0x00#8 ∈ x →
    ∃ (box : List Byte) (j : Nat), ContainerOf x box ∧
      (box.length ≤ s.dstCap.toNat →
        ∃ t, exec .compress s = .next t ∧ t.completedWith box.length 0 0 ∧ OutputIs s t box) ∧
      (s.dstCap.toNat < box.length →
        ∃ t, exec .compress s = .next t ∧ t.completedWith 0 0x05#8 (sat32 box.length)) ∧
      1 ≤ j ∧ box[j]? = some 0x00#8 ∧ (∀ k, 1 ≤ k → k < j → box[k]? ≠ some 0x00#8) ∧ box[j - 1]? = some 0x31#8 ∧
      (∀ u : State, u.snap = some box → CanRun .decompress u →
        ∃ v, exec .decompress u = .next v ∧ v.completedWith 0 0x22#8 j)

/-- 44_container R205: the degenerate round trip. -/
def Obligations.DegenerateRoundTrip : Prop :=
  ∀ (s : State) (n : Nat) (sym : Byte), SourceIs s (List.replicate (n + 1) sym) → CanRun .compress s → sym ≠ 0 →
    ∃ c : List Byte, c = [0x00#8, 0x31#8] ++ utf8Enc sym ++ [0x00#8] ∧ (c.length = 4 ∨ c.length = 5) ∧
      (c.length ≤ s.dstCap.toNat →
        ∃ t, exec .compress s = .next t ∧ t.completedWith c.length 0 0 ∧ OutputIs s t c) ∧
      (∀ u : State, u.snap = some c → CanRun .decompress u →
        ∃ v, exec .decompress u = .next v ∧ v.completedWith 0 0 0)

/-! ### Invariants -/

/-- The reset state meets every invariant. -/
def Obligations.ResetMeetsTheInvariants : Prop := Inv State.reset

/-- Every step keeps memory in its canonical form. The form is the model's own, log entry 1; that addresses lie below
2^32 is 20_memory R70. -/
def Obligations.StepKeepsMemoryCanonical : Prop :=
  ∀ s t : State, MemoryOk s → step s = .next t → MemoryOk t

/-- 10_state R51: "these invariants hold, and every rule that writes the arena keeps them". -/
def Obligations.StepKeepsTheArena : Prop :=
  ∀ s t : State, TreeOk s → step s = .next t → TreeOk t

/-- 10_state R51 (1) to (4), read off the invariant that `StepKeepsTheArena` keeps. -/
def Obligations.ArenaShape : Prop :=
  ∀ (nodes : List Node) (root : NodeIndex), ArenaOk nodes root → nodes ≠ [] →
    nodes.length ≤ 511 ∧ root.toNat < nodes.length ∧
    (∀ (k : Nat) (w : Word) (l r : NodeIndex), nodes[k]? = some (.internal w l r) → l.toNat < nodes.length ∧ r.toNat < nodes.length) ∧
    (∀ i, i < nodes.length → i ≠ root.toNat → ∃! k : Nat, ∃ n : Node, nodes[k]? = some n ∧ n.hasChild i = true) ∧
    (∀ (k : Nat) (n : Node), nodes[k]? = some n → n.hasChild root.toNat = false) ∧
    nodes.length = 2 * leafCount nodes - 1 ∧
    (∀ i, i < nodes.length → ∃ path, follow nodes root.toNat path = some i)

/-- 10_state R52, R53: the code table is cleared or is the table of the tree in the arena. -/
def Obligations.StepKeepsTheCodeTable : Prop :=
  ∀ s t : State, CodeTableOk s → step s = .next t → CodeTableOk t

/-- 10_state R25 ("`BUSY` and `DONE` are never both 1"), R54; 20_memory R73: the lifecycle, and the snapshot is the
source region as it stands while a command that reads it is in flight. -/
def Obligations.StepKeepsTheLifecycle : Prop :=
  ∀ s t : State, LifecycleOk s → step s = .next t → LifecycleOk t

/-- 40_count_build R111: the sum of all counts fits 32 bits. -/
def Obligations.StepKeepsCounts : Prop :=
  ∀ s t : State, LifecycleOk s → CountsOk s → step s = .next t → CountsOk t

/-- From a state that meets the invariants no step ends in the faults and refusals of unreachable states. -/
def Obligations.InvariantStatesNeverBreak : Prop :=
  ∀ s : State, Inv s → step s ≠ .fault .brokenArena ∧ step s ≠ .refused .noCommandInFlight ∧
    ∀ m, step s ≠ .refused (.notModelled m)
end

