-- ==== Sys2Proof/Laws/Memory.lean ====
section
/-! SUPPORT. What reads return after writes, and that every memory operation keeps the canonical form. -/

namespace Sys2Proof.Machine

theorem Memory.read_filter_ne (m : Memory) (a b : Nat) :
    Memory.read (m.filter (fun c => c.1 != a)) b = if b = a then Config.unlistedByte else Memory.read m b := by
  induction m with
  | nil => simp [Memory.read]
  | cons c m ih =>
    obtain ⟨k, w⟩ := c
    by_cases hk : k = a
    · subst hk
      have hfil : ((k, w) :: m).filter (fun c => c.1 != k) = m.filter (fun c => c.1 != k) := by simp
      rw [hfil, ih]
      by_cases hb : b = k
      · simp [hb]
      · simp [Memory.read, hb]
    · by_cases hb : b = k
      · subst hb; simp [Memory.read, hk]
      · simp [Memory.read, hk, hb, ih]

theorem Memory.read_insert (m : Memory) (a b : Nat) (v : Byte) :
    Memory.read (Memory.insert m a v) b = if b = a then v else Memory.read m b := by
  induction m with
  | nil => simp [Memory.insert, Memory.read]
  | cons c m ih =>
    obtain ⟨k, w⟩ := c
    simp only [Memory.insert]
    split
    · simp [Memory.read]
    · split
      · rename_i h; subst h
        simp only [Memory.read]; split <;> rfl
      · by_cases hb : b = k
        · subst hb
          have : b ≠ a := by omega
          simp [Memory.read, this]
        · simp [Memory.read, hb, ih]

/-- A read after a write: the byte written at its address, every other byte as before. -/
theorem Memory.read_write (m : Memory) (a b : Nat) (v : Byte) :
    Memory.read (Memory.write m a v) b = if b = a then v else Memory.read m b := by
  unfold Memory.write
  split
  · rename_i h; rw [Memory.read_filter_ne, h]
  · exact Memory.read_insert m a b v

@[simp] theorem Memory.read_write_self (m : Memory) (a : Nat) (v : Byte) :
    Memory.read (Memory.write m a v) a = v := by simp [Memory.read_write]

theorem Memory.read_write_of_ne (m : Memory) (a b : Nat) (v : Byte) (h : b ≠ a) :
    Memory.read (Memory.write m a v) b = Memory.read m b := by simp [Memory.read_write, h]

theorem Memory.mem_insert {m : Memory} {a : Nat} {v : Byte} {c : Host.Cell} (h : c ∈ Memory.insert m a v) :
    c = (a, v) ∨ c ∈ m := by
  induction m with
  | nil => simpa [Memory.insert] using h
  | cons d m ih =>
    obtain ⟨k, w⟩ := d
    simp only [Memory.insert] at h
    split at h
    · simp only [List.mem_cons] at h ⊢; tauto
    · split at h
      · simp only [List.mem_cons] at h ⊢; tauto
      · simp only [List.mem_cons] at h ⊢
        rcases h with h | h
        · tauto
        · have := ih h; tauto

theorem Memory.insert_wf {m : Memory} (h : Memory.wf m) {a : Nat} {v : Byte} (ha : a < Config.addressSpace)
    (hv : v ≠ Config.unlistedByte) : Memory.wf (Memory.insert m a v) := by
  refine ⟨?_, ?_⟩
  · have hp := h.1
    clear h
    induction m with
    | nil => simp [Memory.insert]
    | cons d m ih =>
      obtain ⟨k, w⟩ := d
      rw [List.pairwise_cons] at hp
      simp only [Memory.insert]
      split
      · rename_i hlt
        refine List.pairwise_cons.2 ⟨?_, List.pairwise_cons.2 hp⟩
        intro c hc
        rcases List.mem_cons.1 hc with rfl | hc
        · exact hlt
        · exact lt_trans hlt (hp.1 c hc)
      · split
        · rename_i _ he
          subst he
          exact List.pairwise_cons.2 hp
        · refine List.pairwise_cons.2 ⟨?_, ih hp.2⟩
          intro c hc
          rcases Memory.mem_insert hc with rfl | hc
          · simp only; omega
          · exact hp.1 c hc
  · intro c hc
    rcases Memory.mem_insert hc with rfl | hc
    · exact ⟨hv, ha⟩
    · exact h.2 c hc

/-- A write below 2^32 keeps the canonical form. -/
theorem Memory.write_wf {m : Memory} (h : Memory.wf m) {a : Nat} (v : Byte) (ha : a < Config.addressSpace) :
    Memory.wf (Memory.write m a v) := by
  unfold Memory.write
  split
  · exact ⟨h.1.sublist List.filter_sublist, fun c hc => h.2 c (List.mem_of_mem_filter hc)⟩
  · rename_i hv
    exact Memory.insert_wf h ha hv

@[simp] theorem Memory.readRange_length (m : Memory) (a n : Nat) : (Memory.readRange m a n).length = n := by
  induction n generalizing a with
  | zero => rfl
  | succ n ih => simp [Memory.readRange, ih]

theorem Memory.readRange_eq_map (m : Memory) (a n : Nat) :
    Memory.readRange m a n = (List.range n).map (fun i => Memory.read m (a + i)) := by
  induction n generalizing a with
  | zero => rfl
  | succ n ih =>
    simp only [Memory.readRange, ih, List.range_succ_eq_map, List.map_cons, List.map_map, Nat.add_zero]
    congr 1
    apply List.map_congr_left
    intro i _
    simp only [Function.comp]
    congr 1
    omega

/-- The bytes of a range depend only on the bytes at its addresses. -/
theorem Memory.readRange_congr {m m' : Memory} {a n : Nat}
    (h : ∀ b, a ≤ b → b < a + n → Memory.read m b = Memory.read m' b) :
    Memory.readRange m a n = Memory.readRange m' a n := by
  rw [Memory.readRange_eq_map, Memory.readRange_eq_map]
  apply List.map_congr_left
  intro i hi
  rw [List.mem_range] at hi
  exact h _ (by omega) (by omega)

/-- A read after a range is stored: the stored byte inside it, every other byte as before. -/
theorem Memory.read_writeRange (m : Memory) (a b : Nat) (bytes : List Byte) :
    Memory.read (Memory.writeRange m a bytes) b =
      if h : a ≤ b ∧ b < a + bytes.length then bytes[b - a]'(by omega) else Memory.read m b := by
  induction bytes generalizing m a with
  | nil => simp [Memory.writeRange]
  | cons v bytes ih =>
    simp only [Memory.writeRange, ih, Memory.read_write, List.length_cons]
    by_cases h1 : b = a
    · subst h1
      have h2 : ¬(b + 1 ≤ b ∧ b < b + 1 + bytes.length) := by omega
      simp
    · by_cases h2 : a ≤ b ∧ b < a + (bytes.length + 1)
      · have h3 : a + 1 ≤ b ∧ b < a + 1 + bytes.length := by omega
        rw [dif_pos h3, dif_pos h2]
        have : b - a = (b - (a + 1)) + 1 := by omega
        simp only [this, List.getElem_cons_succ]
      · have h3 : ¬(a + 1 ≤ b ∧ b < a + 1 + bytes.length) := by omega
        rw [dif_neg h3, dif_neg h2, if_neg h1]

theorem Memory.read_writeRange_outside (m : Memory) {a b : Nat} {bytes : List Byte}
    (h : ¬(a ≤ b ∧ b < a + bytes.length)) :
    Memory.read (Memory.writeRange m a bytes) b = Memory.read m b := by
  rw [Memory.read_writeRange, dif_neg h]

/-- A range stored reads back. -/
@[simp] theorem Memory.readRange_writeRange (m : Memory) (a : Nat) (bytes : List Byte) :
    Memory.readRange (Memory.writeRange m a bytes) a bytes.length = bytes := by
  apply List.ext_getElem (by simp)
  intro i h1 h2
  rw [Memory.readRange_length] at h1
  simp only [Memory.readRange_eq_map, List.getElem_map, List.getElem_range]
  rw [Memory.read_writeRange, dif_pos ⟨by omega, by omega⟩]
  congr 1
  omega

/-- Storing a range that ends at or below 2^32 keeps the canonical form. -/
theorem Memory.writeRange_wf {m : Memory} (h : Memory.wf m) {a : Nat} {bytes : List Byte}
    (ha : bytes = [] ∨ a + bytes.length ≤ Config.addressSpace) : Memory.wf (Memory.writeRange m a bytes) := by
  induction bytes generalizing m a with
  | nil => exact h
  | cons v bytes ih =>
    have ha : a + (bytes.length + 1) ≤ Config.addressSpace := by simpa using ha
    exact ih (Memory.write_wf h v (by omega)) (Or.inr (by omega))

/-- A read of an address no cell names is as before. -/
theorem Memory.read_writeCells_outside (m : Memory) {cells : List Host.Cell} {b : Nat}
    (h : ∀ c ∈ cells, c.1 ≠ b) : Memory.read (Memory.writeCells m cells) b = Memory.read m b := by
  unfold Memory.writeCells
  induction cells generalizing m with
  | nil => rfl
  | cons c cells ih =>
    simp only [List.foldl_cons]
    rw [ih _ (fun d hd => h d (List.mem_cons_of_mem _ hd)),
      Memory.read_write_of_ne _ _ _ _ (h c List.mem_cons_self).symm]

/-- Storing cells below 2^32 keeps the canonical form. -/
theorem Memory.writeCells_wf {m : Memory} (h : Memory.wf m) {cells : List Host.Cell}
    (hc : ∀ c ∈ cells, c.1 < Config.addressSpace) : Memory.wf (Memory.writeCells m cells) := by
  unfold Memory.writeCells
  induction cells generalizing m with
  | nil => exact h
  | cons c cells ih =>
    exact ih (Memory.write_wf h _ (hc c List.mem_cons_self)) (fun d hd => hc d (List.mem_cons_of_mem _ hd))

theorem Memory.read_of_forall_lt {m : Memory} {a : Nat} (h : ∀ c ∈ m, a < c.1) :
    Memory.read m a = Config.unlistedByte := by
  induction m with
  | nil => rfl
  | cons c m ih =>
    obtain ⟨k, w⟩ := c
    have hk : a < k := h (k, w) List.mem_cons_self
    rw [Memory.read, if_neg (by omega), ih (fun d hd => h d (List.mem_cons_of_mem _ hd))]

/-- Two canonical memories that read alike are the same list. -/
theorem Memory.ext_of_wf {m m' : Memory} (h : Memory.wf m) (h' : Memory.wf m')
    (hr : ∀ a, Memory.read m a = Memory.read m' a) : m = m' := by
  obtain ⟨hp, hv⟩ := h
  obtain ⟨hp', hv'⟩ := h'
  induction m generalizing m' with
  | nil =>
    cases m' with
    | nil => rfl
    | cons c m' =>
      obtain ⟨k, w⟩ := c
      have := hr k
      simp only [Memory.read, if_true] at this
      exact absurd this.symm (hv' (k, w) List.mem_cons_self).1
  | cons c m ih =>
    obtain ⟨k, w⟩ := c
    cases m' with
    | nil =>
      have := hr k
      simp only [Memory.read, if_true] at this
      exact absurd this (hv (k, w) List.mem_cons_self).1
    | cons c' m' =>
      obtain ⟨k', w'⟩ := c'
      rw [List.pairwise_cons] at hp hp'
      have hkk : k = k' := by
        rcases Nat.lt_trichotomy k k' with hlt | heq | hgt
        · exfalso
          have h1 := hr k
          have hz : Memory.read ((k', w') :: m') k = Config.unlistedByte := by
            apply Memory.read_of_forall_lt
            intro d hd
            rcases List.mem_cons.1 hd with rfl | hd
            · exact hlt
            · exact lt_trans hlt (hp'.1 d hd)
          rw [hz] at h1
          simp only [Memory.read, if_true] at h1
          exact (hv (k, w) List.mem_cons_self).1 h1
        · exact heq
        · exfalso
          have h1 := hr k'
          have hz : Memory.read ((k, w) :: m) k' = Config.unlistedByte := by
            apply Memory.read_of_forall_lt
            intro d hd
            rcases List.mem_cons.1 hd with rfl | hd
            · exact hgt
            · exact lt_trans hgt (hp.1 d hd)
          rw [hz] at h1
          simp only [Memory.read, if_true] at h1
          exact (hv' (k', w') List.mem_cons_self).1 h1.symm
      subst hkk
      have hww : w = w' := by
        have := hr k
        simpa only [Memory.read, if_true] using this
      subst hww
      have hrest : m = m' := by
        refine ih ?_ hp.2 (fun d hd => hv d (List.mem_cons_of_mem _ hd)) hp'.2
          (fun d hd => hv' d (List.mem_cons_of_mem _ hd))
        intro a
        by_cases ha : a = k
        · subst ha
          rw [Memory.read_of_forall_lt (fun d hd => hp.1 d hd), Memory.read_of_forall_lt (fun d hd => hp'.1 d hd)]
        · have := hr a
          simpa only [Memory.read, if_neg ha] using this
      rw [hrest]

end Sys2Proof.Machine
end

