-- ==== Sys2Proof/Laws/State.lean ====
section
/-! SUPPORT. One lemma per field per update of the state (the updates of Machine/Ops.lean). -/

namespace Sys2Proof.Machine

@[simp] theorem State.setFreq_ie (s : State) (f : FreqTable) : (s.setFreq f).ie = s.ie := rfl
@[simp] theorem State.setFreq_busy (s : State) (f : FreqTable) : (s.setFreq f).busy = s.busy := rfl
@[simp] theorem State.setFreq_done (s : State) (f : FreqTable) : (s.setFreq f).done = s.done := rfl
@[simp] theorem State.setFreq_lastOp (s : State) (f : FreqTable) : (s.setFreq f).lastOp = s.lastOp := rfl
@[simp] theorem State.setFreq_errCode (s : State) (f : FreqTable) : (s.setFreq f).errCode = s.errCode := rfl
@[simp] theorem State.setFreq_errPos (s : State) (f : FreqTable) : (s.setFreq f).errPos = s.errPos := rfl
@[simp] theorem State.setFreq_srcAddr (s : State) (f : FreqTable) : (s.setFreq f).srcAddr = s.srcAddr := rfl
@[simp] theorem State.setFreq_srcLen (s : State) (f : FreqTable) : (s.setFreq f).srcLen = s.srcLen := rfl
@[simp] theorem State.setFreq_dstAddr (s : State) (f : FreqTable) : (s.setFreq f).dstAddr = s.dstAddr := rfl
@[simp] theorem State.setFreq_dstCap (s : State) (f : FreqTable) : (s.setFreq f).dstCap = s.dstCap := rfl
@[simp] theorem State.setFreq_outLen (s : State) (f : FreqTable) : (s.setFreq f).outLen = s.outLen := rfl
@[simp] theorem State.setFreq_pad (s : State) (f : FreqTable) : (s.setFreq f).pad = s.pad := rfl
@[simp] theorem State.setFreq_freqSel (s : State) (f : FreqTable) : (s.setFreq f).freqSel = s.freqSel := rfl
@[simp] theorem State.setFreq_nodeSel (s : State) (f : FreqTable) : (s.setFreq f).nodeSel = s.nodeSel := rfl
@[simp] theorem State.setFreq_codeSel (s : State) (f : FreqTable) : (s.setFreq f).codeSel = s.codeSel := rfl
@[simp] theorem State.setFreq_freq (s : State) (f : FreqTable) : (s.setFreq f).freq = f := rfl
@[simp] theorem State.setFreq_nodes (s : State) (f : FreqTable) : (s.setFreq f).nodes = s.nodes := rfl
@[simp] theorem State.setFreq_root (s : State) (f : FreqTable) : (s.setFreq f).root = s.root := rfl
@[simp] theorem State.setFreq_ct (s : State) (f : FreqTable) : (s.setFreq f).ct = s.ct := rfl
@[simp] theorem State.setFreq_ctValid (s : State) (f : FreqTable) : (s.setFreq f).ctValid = s.ctValid := rfl
@[simp] theorem State.setFreq_curOp (s : State) (f : FreqTable) : (s.setFreq f).curOp = s.curOp := rfl
@[simp] theorem State.setFreq_snap (s : State) (f : FreqTable) : (s.setFreq f).snap = s.snap := rfl
@[simp] theorem State.setFreq_mem (s : State) (f : FreqTable) : (s.setFreq f).mem = s.mem := rfl
@[simp] theorem State.setFreq_platform (s : State) (f : FreqTable) : (s.setFreq f).platform = s.platform := rfl
@[simp] theorem State.setFreq_program (s : State) (f : FreqTable) : (s.setFreq f).program = s.program := rfl
@[simp] theorem State.setFreq_agenda (s : State) (f : FreqTable) : (s.setFreq f).agenda = s.agenda := rfl
@[simp] theorem State.setFreq_readLog (s : State) (f : FreqTable) : (s.setFreq f).readLog = s.readLog := rfl
@[simp] theorem State.setFreq_draws (s : State) (f : FreqTable) : (s.setFreq f).draws = s.draws := rfl

@[simp] theorem State.setTree_ie (s : State) (ns : List Node) (r : NodeIndex) : (s.setTree ns r).ie = s.ie := rfl
@[simp] theorem State.setTree_busy (s : State) (ns : List Node) (r : NodeIndex) : (s.setTree ns r).busy = s.busy := rfl
@[simp] theorem State.setTree_done (s : State) (ns : List Node) (r : NodeIndex) : (s.setTree ns r).done = s.done := rfl
@[simp] theorem State.setTree_lastOp (s : State) (ns : List Node) (r : NodeIndex) : (s.setTree ns r).lastOp = s.lastOp := rfl
@[simp] theorem State.setTree_errCode (s : State) (ns : List Node) (r : NodeIndex) : (s.setTree ns r).errCode = s.errCode := rfl
@[simp] theorem State.setTree_errPos (s : State) (ns : List Node) (r : NodeIndex) : (s.setTree ns r).errPos = s.errPos := rfl
@[simp] theorem State.setTree_srcAddr (s : State) (ns : List Node) (r : NodeIndex) : (s.setTree ns r).srcAddr = s.srcAddr := rfl
@[simp] theorem State.setTree_srcLen (s : State) (ns : List Node) (r : NodeIndex) : (s.setTree ns r).srcLen = s.srcLen := rfl
@[simp] theorem State.setTree_dstAddr (s : State) (ns : List Node) (r : NodeIndex) : (s.setTree ns r).dstAddr = s.dstAddr := rfl
@[simp] theorem State.setTree_dstCap (s : State) (ns : List Node) (r : NodeIndex) : (s.setTree ns r).dstCap = s.dstCap := rfl
@[simp] theorem State.setTree_outLen (s : State) (ns : List Node) (r : NodeIndex) : (s.setTree ns r).outLen = s.outLen := rfl
@[simp] theorem State.setTree_pad (s : State) (ns : List Node) (r : NodeIndex) : (s.setTree ns r).pad = s.pad := rfl
@[simp] theorem State.setTree_freqSel (s : State) (ns : List Node) (r : NodeIndex) : (s.setTree ns r).freqSel = s.freqSel := rfl
@[simp] theorem State.setTree_nodeSel (s : State) (ns : List Node) (r : NodeIndex) : (s.setTree ns r).nodeSel = s.nodeSel := rfl
@[simp] theorem State.setTree_codeSel (s : State) (ns : List Node) (r : NodeIndex) : (s.setTree ns r).codeSel = s.codeSel := rfl
@[simp] theorem State.setTree_freq (s : State) (ns : List Node) (r : NodeIndex) : (s.setTree ns r).freq = s.freq := rfl
@[simp] theorem State.setTree_nodes (s : State) (ns : List Node) (r : NodeIndex) : (s.setTree ns r).nodes = ns := rfl
@[simp] theorem State.setTree_root (s : State) (ns : List Node) (r : NodeIndex) : (s.setTree ns r).root = r := rfl
@[simp] theorem State.setTree_ct (s : State) (ns : List Node) (r : NodeIndex) : (s.setTree ns r).ct = s.ct := rfl
@[simp] theorem State.setTree_ctValid (s : State) (ns : List Node) (r : NodeIndex) : (s.setTree ns r).ctValid = s.ctValid := rfl
@[simp] theorem State.setTree_curOp (s : State) (ns : List Node) (r : NodeIndex) : (s.setTree ns r).curOp = s.curOp := rfl
@[simp] theorem State.setTree_snap (s : State) (ns : List Node) (r : NodeIndex) : (s.setTree ns r).snap = s.snap := rfl
@[simp] theorem State.setTree_mem (s : State) (ns : List Node) (r : NodeIndex) : (s.setTree ns r).mem = s.mem := rfl
@[simp] theorem State.setTree_platform (s : State) (ns : List Node) (r : NodeIndex) : (s.setTree ns r).platform = s.platform := rfl
@[simp] theorem State.setTree_program (s : State) (ns : List Node) (r : NodeIndex) : (s.setTree ns r).program = s.program := rfl
@[simp] theorem State.setTree_agenda (s : State) (ns : List Node) (r : NodeIndex) : (s.setTree ns r).agenda = s.agenda := rfl
@[simp] theorem State.setTree_readLog (s : State) (ns : List Node) (r : NodeIndex) : (s.setTree ns r).readLog = s.readLog := rfl
@[simp] theorem State.setTree_draws (s : State) (ns : List Node) (r : NodeIndex) : (s.setTree ns r).draws = s.draws := rfl

@[simp] theorem State.setCT_ie (s : State) (t : CodeTable) : (s.setCT t).ie = s.ie := rfl
@[simp] theorem State.setCT_busy (s : State) (t : CodeTable) : (s.setCT t).busy = s.busy := rfl
@[simp] theorem State.setCT_done (s : State) (t : CodeTable) : (s.setCT t).done = s.done := rfl
@[simp] theorem State.setCT_lastOp (s : State) (t : CodeTable) : (s.setCT t).lastOp = s.lastOp := rfl
@[simp] theorem State.setCT_errCode (s : State) (t : CodeTable) : (s.setCT t).errCode = s.errCode := rfl
@[simp] theorem State.setCT_errPos (s : State) (t : CodeTable) : (s.setCT t).errPos = s.errPos := rfl
@[simp] theorem State.setCT_srcAddr (s : State) (t : CodeTable) : (s.setCT t).srcAddr = s.srcAddr := rfl
@[simp] theorem State.setCT_srcLen (s : State) (t : CodeTable) : (s.setCT t).srcLen = s.srcLen := rfl
@[simp] theorem State.setCT_dstAddr (s : State) (t : CodeTable) : (s.setCT t).dstAddr = s.dstAddr := rfl
@[simp] theorem State.setCT_dstCap (s : State) (t : CodeTable) : (s.setCT t).dstCap = s.dstCap := rfl
@[simp] theorem State.setCT_outLen (s : State) (t : CodeTable) : (s.setCT t).outLen = s.outLen := rfl
@[simp] theorem State.setCT_pad (s : State) (t : CodeTable) : (s.setCT t).pad = s.pad := rfl
@[simp] theorem State.setCT_freqSel (s : State) (t : CodeTable) : (s.setCT t).freqSel = s.freqSel := rfl
@[simp] theorem State.setCT_nodeSel (s : State) (t : CodeTable) : (s.setCT t).nodeSel = s.nodeSel := rfl
@[simp] theorem State.setCT_codeSel (s : State) (t : CodeTable) : (s.setCT t).codeSel = s.codeSel := rfl
@[simp] theorem State.setCT_freq (s : State) (t : CodeTable) : (s.setCT t).freq = s.freq := rfl
@[simp] theorem State.setCT_nodes (s : State) (t : CodeTable) : (s.setCT t).nodes = s.nodes := rfl
@[simp] theorem State.setCT_root (s : State) (t : CodeTable) : (s.setCT t).root = s.root := rfl
@[simp] theorem State.setCT_ct (s : State) (t : CodeTable) : (s.setCT t).ct = t := rfl
@[simp] theorem State.setCT_ctValid (s : State) (t : CodeTable) : (s.setCT t).ctValid = true := rfl
@[simp] theorem State.setCT_curOp (s : State) (t : CodeTable) : (s.setCT t).curOp = s.curOp := rfl
@[simp] theorem State.setCT_snap (s : State) (t : CodeTable) : (s.setCT t).snap = s.snap := rfl
@[simp] theorem State.setCT_mem (s : State) (t : CodeTable) : (s.setCT t).mem = s.mem := rfl
@[simp] theorem State.setCT_platform (s : State) (t : CodeTable) : (s.setCT t).platform = s.platform := rfl
@[simp] theorem State.setCT_program (s : State) (t : CodeTable) : (s.setCT t).program = s.program := rfl
@[simp] theorem State.setCT_agenda (s : State) (t : CodeTable) : (s.setCT t).agenda = s.agenda := rfl
@[simp] theorem State.setCT_readLog (s : State) (t : CodeTable) : (s.setCT t).readLog = s.readLog := rfl
@[simp] theorem State.setCT_draws (s : State) (t : CodeTable) : (s.setCT t).draws = s.draws := rfl

@[simp] theorem State.setPad_ie (s : State) (p : Byte) : (s.setPad p).ie = s.ie := rfl
@[simp] theorem State.setPad_busy (s : State) (p : Byte) : (s.setPad p).busy = s.busy := rfl
@[simp] theorem State.setPad_done (s : State) (p : Byte) : (s.setPad p).done = s.done := rfl
@[simp] theorem State.setPad_lastOp (s : State) (p : Byte) : (s.setPad p).lastOp = s.lastOp := rfl
@[simp] theorem State.setPad_errCode (s : State) (p : Byte) : (s.setPad p).errCode = s.errCode := rfl
@[simp] theorem State.setPad_errPos (s : State) (p : Byte) : (s.setPad p).errPos = s.errPos := rfl
@[simp] theorem State.setPad_srcAddr (s : State) (p : Byte) : (s.setPad p).srcAddr = s.srcAddr := rfl
@[simp] theorem State.setPad_srcLen (s : State) (p : Byte) : (s.setPad p).srcLen = s.srcLen := rfl
@[simp] theorem State.setPad_dstAddr (s : State) (p : Byte) : (s.setPad p).dstAddr = s.dstAddr := rfl
@[simp] theorem State.setPad_dstCap (s : State) (p : Byte) : (s.setPad p).dstCap = s.dstCap := rfl
@[simp] theorem State.setPad_outLen (s : State) (p : Byte) : (s.setPad p).outLen = s.outLen := rfl
@[simp] theorem State.setPad_pad (s : State) (p : Byte) : (s.setPad p).pad = p := rfl
@[simp] theorem State.setPad_freqSel (s : State) (p : Byte) : (s.setPad p).freqSel = s.freqSel := rfl
@[simp] theorem State.setPad_nodeSel (s : State) (p : Byte) : (s.setPad p).nodeSel = s.nodeSel := rfl
@[simp] theorem State.setPad_codeSel (s : State) (p : Byte) : (s.setPad p).codeSel = s.codeSel := rfl
@[simp] theorem State.setPad_freq (s : State) (p : Byte) : (s.setPad p).freq = s.freq := rfl
@[simp] theorem State.setPad_nodes (s : State) (p : Byte) : (s.setPad p).nodes = s.nodes := rfl
@[simp] theorem State.setPad_root (s : State) (p : Byte) : (s.setPad p).root = s.root := rfl
@[simp] theorem State.setPad_ct (s : State) (p : Byte) : (s.setPad p).ct = s.ct := rfl
@[simp] theorem State.setPad_ctValid (s : State) (p : Byte) : (s.setPad p).ctValid = s.ctValid := rfl
@[simp] theorem State.setPad_curOp (s : State) (p : Byte) : (s.setPad p).curOp = s.curOp := rfl
@[simp] theorem State.setPad_snap (s : State) (p : Byte) : (s.setPad p).snap = s.snap := rfl
@[simp] theorem State.setPad_mem (s : State) (p : Byte) : (s.setPad p).mem = s.mem := rfl
@[simp] theorem State.setPad_platform (s : State) (p : Byte) : (s.setPad p).platform = s.platform := rfl
@[simp] theorem State.setPad_program (s : State) (p : Byte) : (s.setPad p).program = s.program := rfl
@[simp] theorem State.setPad_agenda (s : State) (p : Byte) : (s.setPad p).agenda = s.agenda := rfl
@[simp] theorem State.setPad_readLog (s : State) (p : Byte) : (s.setPad p).readLog = s.readLog := rfl
@[simp] theorem State.setPad_draws (s : State) (p : Byte) : (s.setPad p).draws = s.draws := rfl

@[simp] theorem State.clearFreq_ie (s : State) : (s.clearFreq).ie = s.ie := rfl
@[simp] theorem State.clearFreq_busy (s : State) : (s.clearFreq).busy = s.busy := rfl
@[simp] theorem State.clearFreq_done (s : State) : (s.clearFreq).done = s.done := rfl
@[simp] theorem State.clearFreq_lastOp (s : State) : (s.clearFreq).lastOp = s.lastOp := rfl
@[simp] theorem State.clearFreq_errCode (s : State) : (s.clearFreq).errCode = s.errCode := rfl
@[simp] theorem State.clearFreq_errPos (s : State) : (s.clearFreq).errPos = s.errPos := rfl
@[simp] theorem State.clearFreq_srcAddr (s : State) : (s.clearFreq).srcAddr = s.srcAddr := rfl
@[simp] theorem State.clearFreq_srcLen (s : State) : (s.clearFreq).srcLen = s.srcLen := rfl
@[simp] theorem State.clearFreq_dstAddr (s : State) : (s.clearFreq).dstAddr = s.dstAddr := rfl
@[simp] theorem State.clearFreq_dstCap (s : State) : (s.clearFreq).dstCap = s.dstCap := rfl
@[simp] theorem State.clearFreq_outLen (s : State) : (s.clearFreq).outLen = s.outLen := rfl
@[simp] theorem State.clearFreq_pad (s : State) : (s.clearFreq).pad = s.pad := rfl
@[simp] theorem State.clearFreq_freqSel (s : State) : (s.clearFreq).freqSel = s.freqSel := rfl
@[simp] theorem State.clearFreq_nodeSel (s : State) : (s.clearFreq).nodeSel = s.nodeSel := rfl
@[simp] theorem State.clearFreq_codeSel (s : State) : (s.clearFreq).codeSel = s.codeSel := rfl
@[simp] theorem State.clearFreq_freq (s : State) : (s.clearFreq).freq = Vector.replicate 256 0 := rfl
@[simp] theorem State.clearFreq_nodes (s : State) : (s.clearFreq).nodes = s.nodes := rfl
@[simp] theorem State.clearFreq_root (s : State) : (s.clearFreq).root = s.root := rfl
@[simp] theorem State.clearFreq_ct (s : State) : (s.clearFreq).ct = s.ct := rfl
@[simp] theorem State.clearFreq_ctValid (s : State) : (s.clearFreq).ctValid = s.ctValid := rfl
@[simp] theorem State.clearFreq_curOp (s : State) : (s.clearFreq).curOp = s.curOp := rfl
@[simp] theorem State.clearFreq_snap (s : State) : (s.clearFreq).snap = s.snap := rfl
@[simp] theorem State.clearFreq_mem (s : State) : (s.clearFreq).mem = s.mem := rfl
@[simp] theorem State.clearFreq_platform (s : State) : (s.clearFreq).platform = s.platform := rfl
@[simp] theorem State.clearFreq_program (s : State) : (s.clearFreq).program = s.program := rfl
@[simp] theorem State.clearFreq_agenda (s : State) : (s.clearFreq).agenda = s.agenda := rfl
@[simp] theorem State.clearFreq_readLog (s : State) : (s.clearFreq).readLog = s.readLog := rfl
@[simp] theorem State.clearFreq_draws (s : State) : (s.clearFreq).draws = s.draws := rfl

@[simp] theorem State.clearTree_ie (s : State) : (s.clearTree).ie = s.ie := rfl
@[simp] theorem State.clearTree_busy (s : State) : (s.clearTree).busy = s.busy := rfl
@[simp] theorem State.clearTree_done (s : State) : (s.clearTree).done = s.done := rfl
@[simp] theorem State.clearTree_lastOp (s : State) : (s.clearTree).lastOp = s.lastOp := rfl
@[simp] theorem State.clearTree_errCode (s : State) : (s.clearTree).errCode = s.errCode := rfl
@[simp] theorem State.clearTree_errPos (s : State) : (s.clearTree).errPos = s.errPos := rfl
@[simp] theorem State.clearTree_srcAddr (s : State) : (s.clearTree).srcAddr = s.srcAddr := rfl
@[simp] theorem State.clearTree_srcLen (s : State) : (s.clearTree).srcLen = s.srcLen := rfl
@[simp] theorem State.clearTree_dstAddr (s : State) : (s.clearTree).dstAddr = s.dstAddr := rfl
@[simp] theorem State.clearTree_dstCap (s : State) : (s.clearTree).dstCap = s.dstCap := rfl
@[simp] theorem State.clearTree_outLen (s : State) : (s.clearTree).outLen = s.outLen := rfl
@[simp] theorem State.clearTree_pad (s : State) : (s.clearTree).pad = s.pad := rfl
@[simp] theorem State.clearTree_freqSel (s : State) : (s.clearTree).freqSel = s.freqSel := rfl
@[simp] theorem State.clearTree_nodeSel (s : State) : (s.clearTree).nodeSel = s.nodeSel := rfl
@[simp] theorem State.clearTree_codeSel (s : State) : (s.clearTree).codeSel = s.codeSel := rfl
@[simp] theorem State.clearTree_freq (s : State) : (s.clearTree).freq = s.freq := rfl
@[simp] theorem State.clearTree_nodes (s : State) : (s.clearTree).nodes = [] := rfl
@[simp] theorem State.clearTree_root (s : State) : (s.clearTree).root = 0 := rfl
@[simp] theorem State.clearTree_ct (s : State) : (s.clearTree).ct = s.ct := rfl
@[simp] theorem State.clearTree_ctValid (s : State) : (s.clearTree).ctValid = s.ctValid := rfl
@[simp] theorem State.clearTree_curOp (s : State) : (s.clearTree).curOp = s.curOp := rfl
@[simp] theorem State.clearTree_snap (s : State) : (s.clearTree).snap = s.snap := rfl
@[simp] theorem State.clearTree_mem (s : State) : (s.clearTree).mem = s.mem := rfl
@[simp] theorem State.clearTree_platform (s : State) : (s.clearTree).platform = s.platform := rfl
@[simp] theorem State.clearTree_program (s : State) : (s.clearTree).program = s.program := rfl
@[simp] theorem State.clearTree_agenda (s : State) : (s.clearTree).agenda = s.agenda := rfl
@[simp] theorem State.clearTree_readLog (s : State) : (s.clearTree).readLog = s.readLog := rfl
@[simp] theorem State.clearTree_draws (s : State) : (s.clearTree).draws = s.draws := rfl

@[simp] theorem State.clearCT_ie (s : State) : (s.clearCT).ie = s.ie := rfl
@[simp] theorem State.clearCT_busy (s : State) : (s.clearCT).busy = s.busy := rfl
@[simp] theorem State.clearCT_done (s : State) : (s.clearCT).done = s.done := rfl
@[simp] theorem State.clearCT_lastOp (s : State) : (s.clearCT).lastOp = s.lastOp := rfl
@[simp] theorem State.clearCT_errCode (s : State) : (s.clearCT).errCode = s.errCode := rfl
@[simp] theorem State.clearCT_errPos (s : State) : (s.clearCT).errPos = s.errPos := rfl
@[simp] theorem State.clearCT_srcAddr (s : State) : (s.clearCT).srcAddr = s.srcAddr := rfl
@[simp] theorem State.clearCT_srcLen (s : State) : (s.clearCT).srcLen = s.srcLen := rfl
@[simp] theorem State.clearCT_dstAddr (s : State) : (s.clearCT).dstAddr = s.dstAddr := rfl
@[simp] theorem State.clearCT_dstCap (s : State) : (s.clearCT).dstCap = s.dstCap := rfl
@[simp] theorem State.clearCT_outLen (s : State) : (s.clearCT).outLen = s.outLen := rfl
@[simp] theorem State.clearCT_pad (s : State) : (s.clearCT).pad = s.pad := rfl
@[simp] theorem State.clearCT_freqSel (s : State) : (s.clearCT).freqSel = s.freqSel := rfl
@[simp] theorem State.clearCT_nodeSel (s : State) : (s.clearCT).nodeSel = s.nodeSel := rfl
@[simp] theorem State.clearCT_codeSel (s : State) : (s.clearCT).codeSel = s.codeSel := rfl
@[simp] theorem State.clearCT_freq (s : State) : (s.clearCT).freq = s.freq := rfl
@[simp] theorem State.clearCT_nodes (s : State) : (s.clearCT).nodes = s.nodes := rfl
@[simp] theorem State.clearCT_root (s : State) : (s.clearCT).root = s.root := rfl
@[simp] theorem State.clearCT_ct (s : State) : (s.clearCT).ct = Vector.replicate 256 none := rfl
@[simp] theorem State.clearCT_ctValid (s : State) : (s.clearCT).ctValid = false := rfl
@[simp] theorem State.clearCT_curOp (s : State) : (s.clearCT).curOp = s.curOp := rfl
@[simp] theorem State.clearCT_snap (s : State) : (s.clearCT).snap = s.snap := rfl
@[simp] theorem State.clearCT_mem (s : State) : (s.clearCT).mem = s.mem := rfl
@[simp] theorem State.clearCT_platform (s : State) : (s.clearCT).platform = s.platform := rfl
@[simp] theorem State.clearCT_program (s : State) : (s.clearCT).program = s.program := rfl
@[simp] theorem State.clearCT_agenda (s : State) : (s.clearCT).agenda = s.agenda := rfl
@[simp] theorem State.clearCT_readLog (s : State) : (s.clearCT).readLog = s.readLog := rfl
@[simp] theorem State.clearCT_draws (s : State) : (s.clearCT).draws = s.draws := rfl

@[simp] theorem State.finish_ie (s : State) (n : Nat) (e : Byte) (p : Nat) : (s.finish n e p).ie = s.ie := rfl
@[simp] theorem State.finish_busy (s : State) (n : Nat) (e : Byte) (p : Nat) : (s.finish n e p).busy = false := rfl
@[simp] theorem State.finish_done (s : State) (n : Nat) (e : Byte) (p : Nat) : (s.finish n e p).done = true := rfl
@[simp] theorem State.finish_lastOp (s : State) (n : Nat) (e : Byte) (p : Nat) : (s.finish n e p).lastOp = s.lastOp := rfl
@[simp] theorem State.finish_errCode (s : State) (n : Nat) (e : Byte) (p : Nat) : (s.finish n e p).errCode = e := rfl
@[simp] theorem State.finish_errPos (s : State) (n : Nat) (e : Byte) (p : Nat) : (s.finish n e p).errPos = BitVec.ofNat 32 p := rfl
@[simp] theorem State.finish_srcAddr (s : State) (n : Nat) (e : Byte) (p : Nat) : (s.finish n e p).srcAddr = s.srcAddr := rfl
@[simp] theorem State.finish_srcLen (s : State) (n : Nat) (e : Byte) (p : Nat) : (s.finish n e p).srcLen = s.srcLen := rfl
@[simp] theorem State.finish_dstAddr (s : State) (n : Nat) (e : Byte) (p : Nat) : (s.finish n e p).dstAddr = s.dstAddr := rfl
@[simp] theorem State.finish_dstCap (s : State) (n : Nat) (e : Byte) (p : Nat) : (s.finish n e p).dstCap = s.dstCap := rfl
@[simp] theorem State.finish_outLen (s : State) (n : Nat) (e : Byte) (p : Nat) : (s.finish n e p).outLen = BitVec.ofNat 32 n := rfl
@[simp] theorem State.finish_pad (s : State) (n : Nat) (e : Byte) (p : Nat) : (s.finish n e p).pad = s.pad := rfl
@[simp] theorem State.finish_freqSel (s : State) (n : Nat) (e : Byte) (p : Nat) : (s.finish n e p).freqSel = s.freqSel := rfl
@[simp] theorem State.finish_nodeSel (s : State) (n : Nat) (e : Byte) (p : Nat) : (s.finish n e p).nodeSel = s.nodeSel := rfl
@[simp] theorem State.finish_codeSel (s : State) (n : Nat) (e : Byte) (p : Nat) : (s.finish n e p).codeSel = s.codeSel := rfl
@[simp] theorem State.finish_freq (s : State) (n : Nat) (e : Byte) (p : Nat) : (s.finish n e p).freq = s.freq := rfl
@[simp] theorem State.finish_nodes (s : State) (n : Nat) (e : Byte) (p : Nat) : (s.finish n e p).nodes = s.nodes := rfl
@[simp] theorem State.finish_root (s : State) (n : Nat) (e : Byte) (p : Nat) : (s.finish n e p).root = s.root := rfl
@[simp] theorem State.finish_ct (s : State) (n : Nat) (e : Byte) (p : Nat) : (s.finish n e p).ct = s.ct := rfl
@[simp] theorem State.finish_ctValid (s : State) (n : Nat) (e : Byte) (p : Nat) : (s.finish n e p).ctValid = s.ctValid := rfl
@[simp] theorem State.finish_curOp (s : State) (n : Nat) (e : Byte) (p : Nat) : (s.finish n e p).curOp = none := rfl
@[simp] theorem State.finish_snap (s : State) (n : Nat) (e : Byte) (p : Nat) : (s.finish n e p).snap = none := rfl
@[simp] theorem State.finish_mem (s : State) (n : Nat) (e : Byte) (p : Nat) : (s.finish n e p).mem = s.mem := rfl
@[simp] theorem State.finish_platform (s : State) (n : Nat) (e : Byte) (p : Nat) : (s.finish n e p).platform = s.platform := rfl
@[simp] theorem State.finish_program (s : State) (n : Nat) (e : Byte) (p : Nat) : (s.finish n e p).program = s.program := rfl
@[simp] theorem State.finish_agenda (s : State) (n : Nat) (e : Byte) (p : Nat) : (s.finish n e p).agenda = s.agenda := rfl
@[simp] theorem State.finish_readLog (s : State) (n : Nat) (e : Byte) (p : Nat) : (s.finish n e p).readLog = s.readLog := rfl
@[simp] theorem State.finish_draws (s : State) (n : Nat) (e : Byte) (p : Nat) : (s.finish n e p).draws = s.draws := rfl

@[simp] theorem State.clearWriteSet_ie (s : State) (c : CmdInfo) : (s.clearWriteSet c).ie = s.ie := rfl
@[simp] theorem State.clearWriteSet_busy (s : State) (c : CmdInfo) : (s.clearWriteSet c).busy = s.busy := rfl
@[simp] theorem State.clearWriteSet_done (s : State) (c : CmdInfo) : (s.clearWriteSet c).done = s.done := rfl
@[simp] theorem State.clearWriteSet_lastOp (s : State) (c : CmdInfo) : (s.clearWriteSet c).lastOp = s.lastOp := rfl
@[simp] theorem State.clearWriteSet_errCode (s : State) (c : CmdInfo) : (s.clearWriteSet c).errCode = s.errCode := rfl
@[simp] theorem State.clearWriteSet_errPos (s : State) (c : CmdInfo) : (s.clearWriteSet c).errPos = s.errPos := rfl
@[simp] theorem State.clearWriteSet_srcAddr (s : State) (c : CmdInfo) : (s.clearWriteSet c).srcAddr = s.srcAddr := rfl
@[simp] theorem State.clearWriteSet_srcLen (s : State) (c : CmdInfo) : (s.clearWriteSet c).srcLen = s.srcLen := rfl
@[simp] theorem State.clearWriteSet_dstAddr (s : State) (c : CmdInfo) : (s.clearWriteSet c).dstAddr = s.dstAddr := rfl
@[simp] theorem State.clearWriteSet_dstCap (s : State) (c : CmdInfo) : (s.clearWriteSet c).dstCap = s.dstCap := rfl
@[simp] theorem State.clearWriteSet_outLen (s : State) (c : CmdInfo) : (s.clearWriteSet c).outLen = s.outLen := rfl
@[simp] theorem State.clearWriteSet_pad (s : State) (c : CmdInfo) : (s.clearWriteSet c).pad = if c.writesPad then 0 else s.pad := rfl
@[simp] theorem State.clearWriteSet_freqSel (s : State) (c : CmdInfo) : (s.clearWriteSet c).freqSel = s.freqSel := rfl
@[simp] theorem State.clearWriteSet_nodeSel (s : State) (c : CmdInfo) : (s.clearWriteSet c).nodeSel = s.nodeSel := rfl
@[simp] theorem State.clearWriteSet_codeSel (s : State) (c : CmdInfo) : (s.clearWriteSet c).codeSel = s.codeSel := rfl
@[simp] theorem State.clearWriteSet_freq (s : State) (c : CmdInfo) : (s.clearWriteSet c).freq = if c.writesFreq then Vector.replicate 256 0 else s.freq := rfl
@[simp] theorem State.clearWriteSet_nodes (s : State) (c : CmdInfo) : (s.clearWriteSet c).nodes = if c.writesTree then [] else s.nodes := rfl
@[simp] theorem State.clearWriteSet_root (s : State) (c : CmdInfo) : (s.clearWriteSet c).root = if c.writesTree then 0 else s.root := rfl
@[simp] theorem State.clearWriteSet_ct (s : State) (c : CmdInfo) : (s.clearWriteSet c).ct = if c.writesCt then Vector.replicate 256 none else s.ct := rfl
@[simp] theorem State.clearWriteSet_ctValid (s : State) (c : CmdInfo) : (s.clearWriteSet c).ctValid = if c.writesCt then false else s.ctValid := rfl
@[simp] theorem State.clearWriteSet_curOp (s : State) (c : CmdInfo) : (s.clearWriteSet c).curOp = s.curOp := rfl
@[simp] theorem State.clearWriteSet_snap (s : State) (c : CmdInfo) : (s.clearWriteSet c).snap = s.snap := rfl
@[simp] theorem State.clearWriteSet_mem (s : State) (c : CmdInfo) : (s.clearWriteSet c).mem = s.mem := rfl
@[simp] theorem State.clearWriteSet_platform (s : State) (c : CmdInfo) : (s.clearWriteSet c).platform = s.platform := rfl
@[simp] theorem State.clearWriteSet_program (s : State) (c : CmdInfo) : (s.clearWriteSet c).program = s.program := rfl
@[simp] theorem State.clearWriteSet_agenda (s : State) (c : CmdInfo) : (s.clearWriteSet c).agenda = s.agenda := rfl
@[simp] theorem State.clearWriteSet_readLog (s : State) (c : CmdInfo) : (s.clearWriteSet c).readLog = s.readLog := rfl
@[simp] theorem State.clearWriteSet_draws (s : State) (c : CmdInfo) : (s.clearWriteSet c).draws = s.draws := rfl

@[simp] theorem State.completeOk_ie (s : State) (out : List Byte) : (s.completeOk out).ie = s.ie := rfl
@[simp] theorem State.completeOk_busy (s : State) (out : List Byte) : (s.completeOk out).busy = false := rfl
@[simp] theorem State.completeOk_done (s : State) (out : List Byte) : (s.completeOk out).done = true := rfl
@[simp] theorem State.completeOk_lastOp (s : State) (out : List Byte) : (s.completeOk out).lastOp = s.lastOp := rfl
@[simp] theorem State.completeOk_errCode (s : State) (out : List Byte) : (s.completeOk out).errCode = 0 := rfl
@[simp] theorem State.completeOk_errPos (s : State) (out : List Byte) : (s.completeOk out).errPos = 0 := rfl
@[simp] theorem State.completeOk_srcAddr (s : State) (out : List Byte) : (s.completeOk out).srcAddr = s.srcAddr := rfl
@[simp] theorem State.completeOk_srcLen (s : State) (out : List Byte) : (s.completeOk out).srcLen = s.srcLen := rfl
@[simp] theorem State.completeOk_dstAddr (s : State) (out : List Byte) : (s.completeOk out).dstAddr = s.dstAddr := rfl
@[simp] theorem State.completeOk_dstCap (s : State) (out : List Byte) : (s.completeOk out).dstCap = s.dstCap := rfl
@[simp] theorem State.completeOk_outLen (s : State) (out : List Byte) : (s.completeOk out).outLen = BitVec.ofNat 32 out.length := rfl
@[simp] theorem State.completeOk_pad (s : State) (out : List Byte) : (s.completeOk out).pad = s.pad := rfl
@[simp] theorem State.completeOk_freqSel (s : State) (out : List Byte) : (s.completeOk out).freqSel = s.freqSel := rfl
@[simp] theorem State.completeOk_nodeSel (s : State) (out : List Byte) : (s.completeOk out).nodeSel = s.nodeSel := rfl
@[simp] theorem State.completeOk_codeSel (s : State) (out : List Byte) : (s.completeOk out).codeSel = s.codeSel := rfl
@[simp] theorem State.completeOk_freq (s : State) (out : List Byte) : (s.completeOk out).freq = s.freq := rfl
@[simp] theorem State.completeOk_nodes (s : State) (out : List Byte) : (s.completeOk out).nodes = s.nodes := rfl
@[simp] theorem State.completeOk_root (s : State) (out : List Byte) : (s.completeOk out).root = s.root := rfl
@[simp] theorem State.completeOk_ct (s : State) (out : List Byte) : (s.completeOk out).ct = s.ct := rfl
@[simp] theorem State.completeOk_ctValid (s : State) (out : List Byte) : (s.completeOk out).ctValid = s.ctValid := rfl
@[simp] theorem State.completeOk_curOp (s : State) (out : List Byte) : (s.completeOk out).curOp = none := rfl
@[simp] theorem State.completeOk_snap (s : State) (out : List Byte) : (s.completeOk out).snap = none := rfl
@[simp] theorem State.completeOk_mem (s : State) (out : List Byte) : (s.completeOk out).mem = Memory.writeRange s.mem s.dstAddr.toNat out := rfl
@[simp] theorem State.completeOk_platform (s : State) (out : List Byte) : (s.completeOk out).platform = s.platform := rfl
@[simp] theorem State.completeOk_program (s : State) (out : List Byte) : (s.completeOk out).program = s.program := rfl
@[simp] theorem State.completeOk_agenda (s : State) (out : List Byte) : (s.completeOk out).agenda = s.agenda := rfl
@[simp] theorem State.completeOk_readLog (s : State) (out : List Byte) : (s.completeOk out).readLog = s.readLog := rfl
@[simp] theorem State.completeOk_draws (s : State) (out : List Byte) : (s.completeOk out).draws = s.draws := rfl

@[simp] theorem State.completeStartError_ie (s : State) (e : ErrorCode) : (s.completeStartError e).ie = s.ie := rfl
@[simp] theorem State.completeStartError_busy (s : State) (e : ErrorCode) : (s.completeStartError e).busy = false := rfl
@[simp] theorem State.completeStartError_done (s : State) (e : ErrorCode) : (s.completeStartError e).done = true := rfl
@[simp] theorem State.completeStartError_lastOp (s : State) (e : ErrorCode) : (s.completeStartError e).lastOp = s.lastOp := rfl
@[simp] theorem State.completeStartError_errCode (s : State) (e : ErrorCode) : (s.completeStartError e).errCode = e.value := rfl
@[simp] theorem State.completeStartError_errPos (s : State) (e : ErrorCode) : (s.completeStartError e).errPos = 0 := rfl
@[simp] theorem State.completeStartError_srcAddr (s : State) (e : ErrorCode) : (s.completeStartError e).srcAddr = s.srcAddr := rfl
@[simp] theorem State.completeStartError_srcLen (s : State) (e : ErrorCode) : (s.completeStartError e).srcLen = s.srcLen := rfl
@[simp] theorem State.completeStartError_dstAddr (s : State) (e : ErrorCode) : (s.completeStartError e).dstAddr = s.dstAddr := rfl
@[simp] theorem State.completeStartError_dstCap (s : State) (e : ErrorCode) : (s.completeStartError e).dstCap = s.dstCap := rfl
@[simp] theorem State.completeStartError_outLen (s : State) (e : ErrorCode) : (s.completeStartError e).outLen = 0 := rfl
@[simp] theorem State.completeStartError_pad (s : State) (e : ErrorCode) : (s.completeStartError e).pad = s.pad := rfl
@[simp] theorem State.completeStartError_freqSel (s : State) (e : ErrorCode) : (s.completeStartError e).freqSel = s.freqSel := rfl
@[simp] theorem State.completeStartError_nodeSel (s : State) (e : ErrorCode) : (s.completeStartError e).nodeSel = s.nodeSel := rfl
@[simp] theorem State.completeStartError_codeSel (s : State) (e : ErrorCode) : (s.completeStartError e).codeSel = s.codeSel := rfl
@[simp] theorem State.completeStartError_freq (s : State) (e : ErrorCode) : (s.completeStartError e).freq = s.freq := rfl
@[simp] theorem State.completeStartError_nodes (s : State) (e : ErrorCode) : (s.completeStartError e).nodes = s.nodes := rfl
@[simp] theorem State.completeStartError_root (s : State) (e : ErrorCode) : (s.completeStartError e).root = s.root := rfl
@[simp] theorem State.completeStartError_ct (s : State) (e : ErrorCode) : (s.completeStartError e).ct = s.ct := rfl
@[simp] theorem State.completeStartError_ctValid (s : State) (e : ErrorCode) : (s.completeStartError e).ctValid = s.ctValid := rfl
@[simp] theorem State.completeStartError_curOp (s : State) (e : ErrorCode) : (s.completeStartError e).curOp = none := rfl
@[simp] theorem State.completeStartError_snap (s : State) (e : ErrorCode) : (s.completeStartError e).snap = none := rfl
@[simp] theorem State.completeStartError_mem (s : State) (e : ErrorCode) : (s.completeStartError e).mem = s.mem := rfl
@[simp] theorem State.completeStartError_platform (s : State) (e : ErrorCode) : (s.completeStartError e).platform = s.platform := rfl
@[simp] theorem State.completeStartError_program (s : State) (e : ErrorCode) : (s.completeStartError e).program = s.program := rfl
@[simp] theorem State.completeStartError_agenda (s : State) (e : ErrorCode) : (s.completeStartError e).agenda = s.agenda := rfl
@[simp] theorem State.completeStartError_readLog (s : State) (e : ErrorCode) : (s.completeStartError e).readLog = s.readLog := rfl
@[simp] theorem State.completeStartError_draws (s : State) (e : ErrorCode) : (s.completeStartError e).draws = s.draws := rfl

@[simp] theorem State.clearCore_ie (s : State) : (s.clearCore).ie = State.reset.ie := rfl
@[simp] theorem State.clearCore_busy (s : State) : (s.clearCore).busy = State.reset.busy := rfl
@[simp] theorem State.clearCore_done (s : State) : (s.clearCore).done = State.reset.done := rfl
@[simp] theorem State.clearCore_lastOp (s : State) : (s.clearCore).lastOp = State.reset.lastOp := rfl
@[simp] theorem State.clearCore_errCode (s : State) : (s.clearCore).errCode = State.reset.errCode := rfl
@[simp] theorem State.clearCore_errPos (s : State) : (s.clearCore).errPos = State.reset.errPos := rfl
@[simp] theorem State.clearCore_srcAddr (s : State) : (s.clearCore).srcAddr = State.reset.srcAddr := rfl
@[simp] theorem State.clearCore_srcLen (s : State) : (s.clearCore).srcLen = State.reset.srcLen := rfl
@[simp] theorem State.clearCore_dstAddr (s : State) : (s.clearCore).dstAddr = State.reset.dstAddr := rfl
@[simp] theorem State.clearCore_dstCap (s : State) : (s.clearCore).dstCap = State.reset.dstCap := rfl
@[simp] theorem State.clearCore_outLen (s : State) : (s.clearCore).outLen = State.reset.outLen := rfl
@[simp] theorem State.clearCore_pad (s : State) : (s.clearCore).pad = State.reset.pad := rfl
@[simp] theorem State.clearCore_freqSel (s : State) : (s.clearCore).freqSel = State.reset.freqSel := rfl
@[simp] theorem State.clearCore_nodeSel (s : State) : (s.clearCore).nodeSel = State.reset.nodeSel := rfl
@[simp] theorem State.clearCore_codeSel (s : State) : (s.clearCore).codeSel = State.reset.codeSel := rfl
@[simp] theorem State.clearCore_freq (s : State) : (s.clearCore).freq = State.reset.freq := rfl
@[simp] theorem State.clearCore_nodes (s : State) : (s.clearCore).nodes = State.reset.nodes := rfl
@[simp] theorem State.clearCore_root (s : State) : (s.clearCore).root = State.reset.root := rfl
@[simp] theorem State.clearCore_ct (s : State) : (s.clearCore).ct = State.reset.ct := rfl
@[simp] theorem State.clearCore_ctValid (s : State) : (s.clearCore).ctValid = State.reset.ctValid := rfl
@[simp] theorem State.clearCore_curOp (s : State) : (s.clearCore).curOp = State.reset.curOp := rfl
@[simp] theorem State.clearCore_snap (s : State) : (s.clearCore).snap = State.reset.snap := rfl
@[simp] theorem State.clearCore_mem (s : State) : (s.clearCore).mem = s.mem := rfl
@[simp] theorem State.clearCore_platform (s : State) : (s.clearCore).platform = s.platform := rfl
@[simp] theorem State.clearCore_program (s : State) : (s.clearCore).program = s.program := rfl
@[simp] theorem State.clearCore_agenda (s : State) : (s.clearCore).agenda = s.agenda := rfl
@[simp] theorem State.clearCore_readLog (s : State) : (s.clearCore).readLog = s.readLog := rfl
@[simp] theorem State.clearCore_draws (s : State) : (s.clearCore).draws = s.draws := rfl

end Sys2Proof.Machine
end

