-- ==== Sys2Proof/Laws/Tables.lean ====
section
/-! SUPPORT. The 256-entry tables and the list of symbols. -/

namespace Sys2Proof.Machine

@[simp] theorem entry_table {α : Type} (f : Byte → α) (sym : Byte) : entry (table f) sym = f sym := by
  simp [entry, table]

@[simp] theorem entry_replicate {α : Type} (a : α) (sym : Byte) : entry (Vector.replicate 256 a) sym = a := by
  simp [entry]

/-- Two tables with the same entries are equal. -/
theorem table_ext {α : Type} {t u : Vector α 256} (h : ∀ sym, entry t sym = entry u sym) : t = u := by
  apply Vector.ext
  intro i hi
  have := h (BitVec.ofNat 8 i)
  simpa [entry, Nat.mod_eq_of_lt hi] using this

@[simp] theorem table_const {α : Type} (a : α) : table (fun _ => a) = Vector.replicate 256 a :=
  table_ext (by simp)

@[simp] theorem mem_symbols (sym : Byte) : sym ∈ symbols := by
  simp only [symbols, List.mem_map, List.mem_range]
  exact ⟨sym.toNat, sym.isLt, by simp⟩

theorem symbols_nodup : symbols.Nodup := by
  unfold symbols
  refine List.Nodup.map_on ?_ List.nodup_range
  intro x hx y hy h
  rw [List.mem_range] at hx hy
  have := congrArg BitVec.toNat h
  simpa [BitVec.toNat_ofNat, Nat.mod_eq_of_lt hx, Nat.mod_eq_of_lt hy] using this

@[simp] theorem symbols_length : symbols.length = 256 := by simp [symbols]

@[simp] theorem byteBits_length (b : Byte) : (byteBits b).length = 8 := rfl

theorem sat32_le (v : Nat) : sat32 v ≤ 0xFFFFFFFF := by unfold sat32; omega

theorem sat32_of_le {v : Nat} (h : v ≤ 0xFFFFFFFF) : sat32 v = v := by unfold sat32; omega

end Sys2Proof.Machine
end

