-- ==== Sys2Proof/Laws/Ops.lean ====
section
/-! SUPPORT. What each shared operation of Machine/Ops.lean and Machine/Operands.lean can do, said once. -/

namespace Sys2Proof.Machine

/-! ### Regions and start checks -/

theorem Region.contains_iff (r : Region) (a : Nat) : r.contains a = true ↔ r.base ≤ a ∧ a < r.base + r.len := by
  simp [Region.contains]

theorem Region.inRange_iff (r : Region) : r.inRange = true ↔ r.base + r.len ≤ Config.addressSpace := by
  simp [Region.inRange]

theorem Region.overlaps_iff (r q : Region) :
    r.overlaps q = true ↔ r.len ≠ 0 ∧ q.len ≠ 0 ∧ r.base < q.base + q.len ∧ q.base < r.base + r.len := by
  simp [Region.overlaps]

/-- Two regions that do not overlap share no address. -/
theorem Region.not_contains_of_not_overlaps {r q : Region} (h : r.overlaps q = false) {a : Nat}
    (hr : r.contains a = true) : q.contains a = false := by
  rw [Region.contains_iff] at hr
  by_contra hq
  rw [Bool.not_eq_false, Region.contains_iff] at hq
  have : r.overlaps q = true := (Region.overlaps_iff r q).2 ⟨by omega, by omega, by omega, by omega⟩
  rw [this] at h
  cases h

/-- Two regions overlap exactly when they share an address. -/
theorem Region.overlaps_iff_exists (r q : Region) :
    r.overlaps q = true ↔ ∃ a, r.contains a = true ∧ q.contains a = true := by
  constructor
  · intro h
    have h' := (Region.overlaps_iff r q).1 h
    exact ⟨max r.base q.base, (Region.contains_iff _ _).2 (by omega), (Region.contains_iff _ _).2 (by omega)⟩
  · rintro ⟨a, hr, hq⟩
    by_contra h
    rw [Bool.not_eq_true] at h
    simp [Region.not_contains_of_not_overlaps h hr] at hq

/-- What passing the start checks says (60_exceptions R222). -/
theorem startCheck_eq_none_iff (c : CmdInfo) (s : State) :
    startCheck c s = none ↔
      (c.readsSrc = true → s.srcRegion.inRange = true) ∧ (c.writesDst = true → s.dstRegion.inRange = true) ∧
        (c.readsSrc = true → c.writesDst = true → s.srcRegion.overlaps s.dstRegion = false) := by
  unfold startCheck
  cases c.readsSrc <;> cases c.writesDst <;> cases s.srcRegion.inRange <;> cases s.dstRegion.inRange <;>
    cases s.srcRegion.overlaps s.dstRegion <;> simp

/-- The start checks report only `RANGE_SRC`, `RANGE_DST` and `OVERLAP`. -/
theorem startCheck_cases {c : CmdInfo} {s : State} {code : ErrorCode} (h : startCheck c s = some code) :
    code = .rangeSrc ∨ code = .rangeDst ∨ code = .overlap := by
  unfold startCheck at h
  split at h
  · left; simpa using h.symm
  · split at h
    · right; left; simpa using h.symm
    · split at h
      · right; right; simpa using h.symm
      · simp at h

/-- The start checks read the state only through the two regions. -/
theorem startCheck_congr {c : CmdInfo} {s t : State} (hs : t.srcRegion = s.srcRegion)
    (hd : t.dstRegion = s.dstRegion) : startCheck c t = startCheck c s := by
  simp [startCheck, hs, hd]

/-- The platform's refusals read the state only through the regions and the platform. -/
theorem platformCheck_congr {c : CmdInfo} {s t : State} (hs : t.srcRegion = s.srcRegion)
    (hd : t.dstRegion = s.dstRegion) (hp : t.platform = s.platform) : platformCheck c t = platformCheck c s := by
  simp [platformCheck, activeRegions, State.csrWindow, hs, hd, hp]

/-- The source bytes are the bytes of the source region (20_memory R73). -/
theorem State.source_getElem? (s : State) (h : s.srcRegion.inRange = true) {i : Nat} (hi : i < s.srcLen.toNat) :
    s.source[i]? = some (Memory.read s.mem (s.srcAddr.toNat + i)) := by
  rw [Region.inRange_iff] at h
  simp only [State.srcRegion] at h
  have hmin : min s.srcLen.toNat (Config.addressSpace - s.srcAddr.toNat) = s.srcLen.toNat := by omega
  simp [State.source, hmin, Memory.readRange_eq_map, hi]

theorem State.source_length_le (s : State) : s.source.length ≤ s.srcLen.toNat := by
  simp [State.source]

theorem State.source_length (s : State) (h : s.srcRegion.inRange = true) : s.source.length = s.srcLen.toNat := by
  rw [Region.inRange_iff] at h
  simp only [State.srcRegion] at h
  simp only [State.source, Memory.readRange_length]
  omega

/-! ### Freed destination bytes (20_memory R75) -/

theorem freeDst_of_not_writesDst {s : State} {c : CmdInfo} (h : c.writesDst = false) : s.freeDst c = s := by
  simp [State.freeDst, h]

/-- Freeing the destination changes nothing but memory and the draw counter. -/
theorem State.freeDst_eq (s : State) (c : CmdInfo) :
    s.freeDst c = { s with mem := (s.freeDst c).mem, draws := (s.freeDst c).draws } := by
  unfold State.freeDst; split <;> rfl

@[simp] theorem State.freeDst_ie (s : State) (c : CmdInfo) : (s.freeDst c).ie = s.ie := by rw [State.freeDst_eq]
@[simp] theorem State.freeDst_busy (s : State) (c : CmdInfo) : (s.freeDst c).busy = s.busy := by rw [State.freeDst_eq]
@[simp] theorem State.freeDst_done (s : State) (c : CmdInfo) : (s.freeDst c).done = s.done := by rw [State.freeDst_eq]
@[simp] theorem State.freeDst_lastOp (s : State) (c : CmdInfo) : (s.freeDst c).lastOp = s.lastOp := by
  rw [State.freeDst_eq]
@[simp] theorem State.freeDst_errCode (s : State) (c : CmdInfo) : (s.freeDst c).errCode = s.errCode := by
  rw [State.freeDst_eq]
@[simp] theorem State.freeDst_errPos (s : State) (c : CmdInfo) : (s.freeDst c).errPos = s.errPos := by
  rw [State.freeDst_eq]
@[simp] theorem State.freeDst_srcAddr (s : State) (c : CmdInfo) : (s.freeDst c).srcAddr = s.srcAddr := by
  rw [State.freeDst_eq]
@[simp] theorem State.freeDst_srcLen (s : State) (c : CmdInfo) : (s.freeDst c).srcLen = s.srcLen := by
  rw [State.freeDst_eq]
@[simp] theorem State.freeDst_dstAddr (s : State) (c : CmdInfo) : (s.freeDst c).dstAddr = s.dstAddr := by
  rw [State.freeDst_eq]
@[simp] theorem State.freeDst_dstCap (s : State) (c : CmdInfo) : (s.freeDst c).dstCap = s.dstCap := by
  rw [State.freeDst_eq]
@[simp] theorem State.freeDst_outLen (s : State) (c : CmdInfo) : (s.freeDst c).outLen = s.outLen := by
  rw [State.freeDst_eq]
@[simp] theorem State.freeDst_pad (s : State) (c : CmdInfo) : (s.freeDst c).pad = s.pad := by rw [State.freeDst_eq]
@[simp] theorem State.freeDst_freqSel (s : State) (c : CmdInfo) : (s.freeDst c).freqSel = s.freqSel := by
  rw [State.freeDst_eq]
@[simp] theorem State.freeDst_nodeSel (s : State) (c : CmdInfo) : (s.freeDst c).nodeSel = s.nodeSel := by
  rw [State.freeDst_eq]
@[simp] theorem State.freeDst_codeSel (s : State) (c : CmdInfo) : (s.freeDst c).codeSel = s.codeSel := by
  rw [State.freeDst_eq]
@[simp] theorem State.freeDst_freq (s : State) (c : CmdInfo) : (s.freeDst c).freq = s.freq := by rw [State.freeDst_eq]
@[simp] theorem State.freeDst_nodes (s : State) (c : CmdInfo) : (s.freeDst c).nodes = s.nodes := by
  rw [State.freeDst_eq]
@[simp] theorem State.freeDst_root (s : State) (c : CmdInfo) : (s.freeDst c).root = s.root := by rw [State.freeDst_eq]
@[simp] theorem State.freeDst_ct (s : State) (c : CmdInfo) : (s.freeDst c).ct = s.ct := by rw [State.freeDst_eq]
@[simp] theorem State.freeDst_ctValid (s : State) (c : CmdInfo) : (s.freeDst c).ctValid = s.ctValid := by
  rw [State.freeDst_eq]
@[simp] theorem State.freeDst_curOp (s : State) (c : CmdInfo) : (s.freeDst c).curOp = s.curOp := by
  rw [State.freeDst_eq]
@[simp] theorem State.freeDst_snap (s : State) (c : CmdInfo) : (s.freeDst c).snap = s.snap := by rw [State.freeDst_eq]
@[simp] theorem State.freeDst_platform (s : State) (c : CmdInfo) : (s.freeDst c).platform = s.platform := by
  rw [State.freeDst_eq]
@[simp] theorem State.freeDst_program (s : State) (c : CmdInfo) : (s.freeDst c).program = s.program := by
  rw [State.freeDst_eq]
@[simp] theorem State.freeDst_agenda (s : State) (c : CmdInfo) : (s.freeDst c).agenda = s.agenda := by
  rw [State.freeDst_eq]
@[simp] theorem State.freeDst_readLog (s : State) (c : CmdInfo) : (s.freeDst c).readLog = s.readLog := by
  rw [State.freeDst_eq]

theorem mem_freeDstCells {s : State} {cell : Host.Cell} (h : cell ∈ freeDstCells s) :
    (∃ i < s.dstCap.toNat, cell = (s.dstAddr.toNat + i, Config.freeByte (s.draws + i))) ∧
      cell.1 < Config.addressSpace := by
  unfold freeDstCells at h
  rw [List.mem_filter, List.mem_map] at h
  obtain ⟨⟨i, hi, rfl⟩, h2⟩ := h
  rw [List.mem_range] at hi
  exact ⟨⟨i, hi, rfl⟩, by simpa using h2⟩

/-- A byte outside the destination region keeps its value (20_memory R74, R75). -/
theorem State.freeDst_read_outside (s : State) (c : CmdInfo) {a : Nat} (h : s.dstRegion.contains a = false) :
    Memory.read (s.freeDst c).mem a = Memory.read s.mem a := by
  unfold State.freeDst
  split
  · apply Memory.read_writeCells_outside
    rintro cell hc rfl
    obtain ⟨⟨i, hi, rfl⟩, -⟩ := mem_freeDstCells hc
    have : s.dstRegion.contains (s.dstAddr.toNat + i) = true :=
      (Region.contains_iff _ _).2 ⟨by simp [State.dstRegion], by simp [State.dstRegion]; omega⟩
    simp only at h
    rw [this] at h
    cases h
  · rfl

/-- A byte of the source region of a command that passes its start checks keeps its value (20_memory R74). -/
theorem State.freeDst_read_source (s : State) (c : CmdInfo) (hc : c.readsSrc = true)
    (h0 : startCheck c s = none) {a : Nat} (h : s.srcRegion.contains a = true) :
    Memory.read (s.freeDst c).mem a = Memory.read s.mem a := by
  cases hw : c.writesDst with
  | false => rw [freeDst_of_not_writesDst hw]
  | true =>
    exact s.freeDst_read_outside c
      (Region.not_contains_of_not_overlaps (((startCheck_eq_none_iff c s).1 h0).2.2 hc hw) h)

theorem State.freeDst_wf (s : State) (c : CmdInfo) (h : Memory.wf s.mem) : Memory.wf (s.freeDst c).mem := by
  unfold State.freeDst
  split
  · exact Memory.writeCells_wf h (fun cell hc => (mem_freeDstCells hc).2)
  · exact h

/-! ### Completion (30_encoding R105) -/

theorem boundedOutput_cases (cap : Word) (s : State) (out : List Byte) :
    (cap.toNat < out.length ∧ boundedOutput cap s out = raise .dstOverflow (sat32 out.length)) ∨
      (out.length ≤ cap.toNat ∧ boundedOutput cap s out = .ok (s, out)) := by
  unfold boundedOutput
  by_cases h : out.length > cap.toNat
  · left; exact ⟨h, if_pos h⟩
  · right; exact ⟨by omega, if_neg h⟩

theorem boundedOutput_ok {cap : Word} {s t : State} {out o : List Byte}
    (h : boundedOutput cap s out = .ok (t, o)) : t = s ∧ o = out ∧ o.length ≤ cap.toNat := by
  rcases boundedOutput_cases cap s out with ⟨-, h'⟩ | ⟨hle, h'⟩
  · rw [h'] at h; simp [raise] at h
  · rw [h'] at h
    simp only [Except.ok.injEq, Prod.mk.injEq] at h
    exact ⟨h.1.symm, h.2.symm, h.2 ▸ hle⟩

/-- Everything the completion step can answer. -/
theorem complete_cases (c : CmdInfo) (body : State → List Byte → Run (State × List Byte)) (s : State) :
    (∃ code, startCheck c s = some code ∧ complete c body s = .next (s.completeStartError code)) ∨
    (startCheck c s = none ∧ ∃ r, platformCheck c s = some r ∧ complete c body s = .refused r) ∨
    (startCheck c s = none ∧ platformCheck c s = none ∧
      ((∃ s' out, body s (s.snap.getD []) = .ok (s', out) ∧ complete c body s = .next (s'.completeOk out)) ∨
       (∃ code pos, body s (s.snap.getD []) = .error (.error code pos) ∧
          complete c body s = .next (s.completeError c code pos)) ∨
       (body s (s.snap.getD []) = .error .brokenArena ∧ complete c body s = .fault .brokenArena))) := by
  unfold complete
  cases h1 : startCheck c s with
  | some code => exact .inl ⟨code, rfl, rfl⟩
  | none =>
    cases h2 : platformCheck c s with
    | some r => exact .inr (.inl ⟨rfl, r, rfl, rfl⟩)
    | none =>
      refine .inr (.inr ⟨rfl, rfl, ?_⟩)
      rcases h3 : body s (s.snap.getD []) with r | ⟨s', out⟩
      · cases r with
        | error code pos => exact .inr (.inl ⟨code, pos, rfl, rfl⟩)
        | brokenArena => exact .inr (.inr ⟨rfl, rfl⟩)
      · exact .inl ⟨s', out, rfl, rfl⟩

/-- A command whose start checks and platform pass answers what its pseudocode ends with. -/
theorem complete_of_run {c : CmdInfo} {body : State → List Byte → Run (State × List Byte)} {s : State} {S : List Byte}
    (h1 : startCheck c s = none) (h2 : platformCheck c s = none) (hS : s.snap = some S) :
    complete c body s = completeRun c s (body s S) := by
  simp [complete, h1, h2, hS]

theorem complete_of_startCheck {c : CmdInfo} {body : State → List Byte → Run (State × List Byte)} {s : State}
    {code : ErrorCode} (h : startCheck c s = some code) : complete c body s = .next (s.completeStartError code) := by
  simp [complete, h]

/-- An error leaves every byte outside the destination region as it was (20_memory R75). -/
theorem State.completeError_read_outside (s : State) (c : CmdInfo) (code : ErrorCode) (pos : Nat) {a : Nat}
    (h : s.dstRegion.contains a = false) :
    Memory.read (s.completeError c code pos).mem a = Memory.read s.mem a := by
  have h' : (s.clearWriteSet c).dstRegion.contains a = false := h
  simpa [State.completeError] using State.freeDst_read_outside (s.clearWriteSet c) c h'

/-- Success writes the output at the destination address and no other byte (20_memory R74). -/
theorem State.completeOk_read (s : State) (out : List Byte) (a : Nat) :
    Memory.read (s.completeOk out).mem a =
      if h : s.dstAddr.toNat ≤ a ∧ a < s.dstAddr.toNat + out.length then out[a - s.dstAddr.toNat]'(by omega)
      else Memory.read s.mem a := by
  simpa using Memory.read_writeRange s.mem s.dstAddr.toNat a out

/-! ### Acceptance and reset -/

/-- Everything a `CMD` write can do (30_encoding R104). -/
theorem State.accept_cases (s : State) (v : Word) :
    (s.busy = true ∧ s.accept v = s) ∨
    (s.busy = false ∧ (∃ e, decode v = .error e) ∧
      s.accept v = { s with lastOp := opField v, done := true, errCode := 0x01#8, errPos := 0, outLen := 0 }) ∨
    (s.busy = false ∧ (∃ i, decode v = .ok i) ∧
      s.accept v =
        { s with
          lastOp := opField v
          done := false
          errCode := 0
          errPos := 0
          outLen := 0
          curOp := some (opField v)
          snap := some s.source
          busy := true }) := by
  unfold State.accept
  cases hb : s.busy with
  | true => exact .inl ⟨rfl, rfl⟩
  | false =>
    cases hd : decode v with
    | error e => exact .inr (.inl ⟨rfl, ⟨e, rfl⟩, by simp [ErrorCode.value]⟩)
    | ok i => exact .inr (.inr ⟨rfl, ⟨i, rfl⟩, by simp⟩)

theorem State.inFlight_eq_some {s : State} {i : Instr} (h : s.inFlight = some i) :
    s.busy = true ∧ ∃ op, s.curOp = some op ∧ decodeOp op = .ok i := by
  unfold State.inFlight at h
  split at h
  · rename_i hb
    refine ⟨hb, ?_⟩
    cases hc : s.curOp with
    | none => simp [hc] at h
    | some op =>
      refine ⟨op, rfl, ?_⟩
      cases hd : decodeOp op with
      | error e => simp [hc, hd, Except.toOption] at h
      | ok j => simpa [hc, hd, Except.toOption] using h
  · simp at h

/-- A reset state: the core cleared, memory as the abort of a command in flight left it (70_reset R261). -/
theorem State.coreReset_cases (s : State) :
    (s.inFlight = none ∧ s.coreReset = s.clearCore) ∨
    (∃ i, s.inFlight = some i ∧ s.coreReset = (s.freeDst (cmdInfo i)).clearCore) := by
  unfold State.coreReset
  cases h : s.inFlight with
  | none => exact .inl ⟨rfl, rfl⟩
  | some i => exact .inr ⟨i, rfl, rfl⟩

/-- Reset leaves every byte outside the destination region as it was (70_reset R261). -/
theorem State.coreReset_read_outside (s : State) {a : Nat} (h : s.dstRegion.contains a = false) :
    Memory.read s.coreReset.mem a = Memory.read s.mem a := by
  rcases s.coreReset_cases with ⟨-, he⟩ | ⟨i, -, he⟩ <;> rw [he]
  · rfl
  · exact s.freeDst_read_outside (cmdInfo i) h

theorem State.coreReset_wf (s : State) (h : Memory.wf s.mem) : Memory.wf s.coreReset.mem := by
  rcases s.coreReset_cases with ⟨-, he⟩ | ⟨i, -, he⟩ <;> rw [he]
  · exact h
  · exact s.freeDst_wf (cmdInfo i) h

end Sys2Proof.Machine
end

