-- ==== Sys2Proof/Laws/Csr.lean ====
section
/-! SUPPORT. What a host access to a CSR can do, said once. -/

namespace Sys2Proof.Machine

@[simp] theorem Csr.ofOffset_offset (c : Csr) : Csr.ofOffset c.offset = some c := by
  cases c with
  | codeW k => revert k; decide
  | _ => rfl

/-- Every CSR offset is a multiple of 4 (10_state R21). -/
theorem Csr.offset_aligned (c : Csr) : c.offset.toNat % 4 = 0 := by
  cases c with
  | codeW k => revert k; decide
  | _ => rfl

@[simp] theorem csrAccessOk_offset (c : Csr) : csrAccessOk .word c.offset = true := by
  simp [csrAccessOk, Csr.offset_aligned]

/-- A read changes only the read log and the draw counter (10_state R21 "No CSR read changes any state"). -/
theorem State.csrRead_eq (s : State) (offset : CsrOffset) :
    (s.csrRead offset).1 =
      { s with readLog := .csr offset (s.csrRead offset).2 :: s.readLog, draws := (s.csrRead offset).1.draws } := by
  unfold State.csrRead
  cases Csr.ofOffset offset <;> rfl

theorem State.csrRead_of_csr (s : State) (c : Csr) :
    s.csrRead c.offset =
      ({ s with
          readLog := .csr c.offset (s.readValue c (Config.freeWord s.draws)) :: s.readLog
          draws := if s.readDraws c then s.draws + 1 else s.draws },
        s.readValue c (Config.freeWord s.draws)) := by
  simp [State.csrRead]

/-- While `BUSY` = 0 a read returns what 10_state R22 to R45 say. -/
theorem State.readValue_idle {s : State} (h : s.busy = false) (c : Csr) (w : Word) : s.readValue c w = s.csrValue c := by
  simp [State.readValue, h]

@[simp] theorem State.csrWriteAt_offset (s : State) (c : Csr) (v : Word) : s.csrWriteAt c.offset v = s.csrWrite c v := by
  simp [State.csrWriteAt]

/-- Everything a CSR write can do: the registers it can write, a new command, or a reset. -/
theorem State.csrWrite_cases (s : State) (c : Csr) (v : Word) :
    s.csrWrite c v = s ∨
    (c = .ctrl ∧ s.csrWrite c v = s.coreReset) ∨
    (c = .ctrl ∧ ∃ b, s.csrWrite c v = { s with ie := b }) ∨
    (c = .cmd ∧ s.csrWrite c v = s.accept v) ∨
    (c = .status ∧ s.busy = false ∧ s.csrWrite c v = { s with done := false }) ∨
    (c = .srcAddr ∧ s.busy = false ∧ s.csrWrite c v = { s with srcAddr := v }) ∨
    (c = .srcLen ∧ s.busy = false ∧ s.csrWrite c v = { s with srcLen := v }) ∨
    (c = .dstAddr ∧ s.busy = false ∧ s.csrWrite c v = { s with dstAddr := v }) ∨
    (c = .dstCap ∧ s.busy = false ∧ s.csrWrite c v = { s with dstCap := v }) ∨
    (c = .pad ∧ s.busy = false ∧ ∃ p, s.csrWrite c v = { s with pad := p }) ∨
    (c = .freqSel ∧ ∃ x, s.csrWrite c v = { s with freqSel := x }) ∨
    (c = .nodeSel ∧ ∃ x, s.csrWrite c v = { s with nodeSel := x }) ∨
    (c = .codeSel ∧ ∃ x, s.csrWrite c v = { s with codeSel := x }) := by
  cases c <;> simp only [State.csrWrite, State.writeCtrl, State.writeStatus, true_or]
  case ctrl => split <;> simp
  case cmd => simp
  case status => cases s.busy <;> cases v.getLsbD 1 <;> simp
  case srcAddr => cases hb : s.busy <;> simp
  case srcLen => cases hb : s.busy <;> simp
  case dstAddr => cases hb : s.busy <;> simp
  case dstCap => cases hb : s.busy <;> simp
  case pad => cases hb : s.busy <;> simp
  case freqSel => simp
  case nodeSel => simp
  case codeSel => simp

end Sys2Proof.Machine
end

