-- ==== Sys2Proof/Laws/Step.lean ====
section
/-! SUPPORT. What a meaning and a step can answer, said once. -/

namespace Sys2Proof.Machine

/-- Every meaning is the shared completion step over the command's own pseudocode. -/
theorem exec_eq_complete (i : Instr) (s : State) : exec i s = complete (cmdInfo i) (bodyOf i) s := by
  cases i <;> rfl

/-- Everything a command can answer. -/
theorem exec_cases (i : Instr) (s : State) :
    (∃ code, startCheck (cmdInfo i) s = some code ∧ exec i s = .next (s.completeStartError code)) ∨
    (startCheck (cmdInfo i) s = none ∧ ∃ r, platformCheck (cmdInfo i) s = some r ∧ exec i s = .refused r) ∨
    (startCheck (cmdInfo i) s = none ∧ platformCheck (cmdInfo i) s = none ∧
      ((∃ s' out, bodyOf i s (s.snap.getD []) = .ok (s', out) ∧ exec i s = .next (s'.completeOk out)) ∨
       (∃ code pos, bodyOf i s (s.snap.getD []) = .error (.error code pos) ∧
          exec i s = .next (s.completeError (cmdInfo i) code pos)) ∨
       (bodyOf i s (s.snap.getD []) = .error .brokenArena ∧ exec i s = .fault .brokenArena))) := by
  rw [exec_eq_complete]
  exact complete_cases _ _ _

/-- `csrw c, v` as a host move (30_encoding R100). -/
@[simp] theorem hostMove_csrw (s : State) (c : Csr) (v : Word) : hostMove (csrw c v) s = .next (s.csrWrite c v) := by
  simp [hostMove, hostCsrWrite, csrw]

/-- `csrr c` as a host move (30_encoding R100). -/
theorem hostMove_csrr (s : State) (c : Csr) : hostMove (csrr c) s = .next (s.csrRead c.offset).1 := by
  simp [hostMove, hostCsrRead, csrr]

/-- Everything the host's step can answer. -/
theorem hostStep_cases (s : State) :
    (s.program = [] ∧ hostStep s = .next s) ∨
    (∃ op rest, s.program = op :: rest ∧ hostStep s = hostMove op { s with program := rest }) := by
  unfold hostStep
  cases h : s.program with
  | nil => exact .inl ⟨rfl, rfl⟩
  | cons op rest => exact .inr ⟨op, rest, rfl, rfl⟩

/-- Everything the core's step can answer. -/
theorem coreStep_cases (s : State) :
    (s.busy = false ∧ coreStep s = .next s) ∨
    (s.busy = true ∧ s.inFlight = none ∧ coreStep s = .refused .noCommandInFlight) ∨
    (s.busy = true ∧ ∃ i, s.inFlight = some i ∧ coreStep s = exec i s) := by
  unfold coreStep
  cases hb : s.busy with
  | false => exact .inl ⟨rfl, rfl⟩
  | true =>
    cases h : s.inFlight with
    | none => exact .inr (.inl ⟨rfl, rfl, rfl⟩)
    | some i => exact .inr (.inr ⟨rfl, i, rfl, rfl⟩)

/-- Everything a step can be: a move of the host or of the core, over the agenda left. -/
theorem step_cases (s : State) :
    (∃ rest, s.agenda = .host :: rest ∧ step s = hostStep { s with agenda := rest }) ∨
    (∃ rest, s.agenda = .core :: rest ∧ step s = coreStep { s with agenda := rest }) ∨
    (s.agenda = [] ∧ s.busy = true ∧ step s = coreStep s) ∨
    (s.agenda = [] ∧ s.busy = false ∧ step s = hostStep s) := by
  unfold step
  rcases h : s.agenda with _ | ⟨a, rest⟩
  · cases hb : s.busy with
    | true => exact .inr (.inr (.inl ⟨rfl, rfl, by simp⟩))
    | false => exact .inr (.inr (.inr ⟨rfl, rfl, by simp⟩))
  · cases a with
    | host => exact .inl ⟨rest, rfl, rfl⟩
    | core => exact .inr (.inl ⟨rest, rfl, rfl⟩)

end Sys2Proof.Machine
end

