-- ==== Sys2Proof/Laws/Meanings.lean ====
section
/-! SUPPORT. What the pseudocode of every command can end with, said once: its writes, its output, its errors. -/

namespace Sys2Proof.Machine

/-! ### Peeling a piece of pseudocode apart -/

theorem Run.bind_eq_ok {α β : Type} {x : Run α} {f : α → Run β} {b : β} :
    (x >>= f) = .ok b ↔ ∃ a, x = .ok a ∧ f a = .ok b := by
  cases x <;> simp [bind, Except.bind]

theorem Run.bind_eq_error {α β : Type} {x : Run α} {f : α → Run β} {e : Raise} :
    (x >>= f) = .error e ↔ x = .error e ∨ ∃ a, x = .ok a ∧ f a = .error e := by
  cases x <;> simp [bind, Except.bind]

@[simp] theorem Run.ok_bind {α β : Type} (a : α) (f : α → Run β) : ((.ok a : Run α) >>= f) = f a := rfl

@[simp] theorem Run.error_bind {α β : Type} (e : Raise) (f : α → Run β) : ((.error e : Run α) >>= f) = .error e := rfl

/-! ### Success: the writes lie in the write set, the output fits (30_encoding R93, R106) -/

/-- The pseudocode's writes lie in the write set of `c`, and its output fits the destination. -/
structure BodyWrites (c : CmdInfo) (s s' : State) (out : List Byte) : Prop where
  state : s' = { s with
    freq := s'.freq
    nodes := s'.nodes
    root := s'.root
    ct := s'.ct
    ctValid := s'.ctValid
    pad := s'.pad }
  freq : c.writesFreq = false → s'.freq = s.freq
  tree : c.writesTree = false → s'.nodes = s.nodes ∧ s'.root = s.root
  ct : c.writesCt = false → s'.ct = s.ct ∧ s'.ctValid = s.ctValid
  pad : c.writesPad = false → s'.pad = s.pad
  noOutput : c.writesDst = false → out = []
  bound : out.length ≤ s.dstCap.toNat

theorem bodyOf_ok {i : Instr} {s s' : State} {S out : List Byte} (h : bodyOf i s S = .ok (s', out)) :
    BodyWrites (cmdInfo i) s s' out := by
  cases i <;> simp only [bodyOf] at h
  case compress =>
    rw [compressBody, Run.bind_eq_ok] at h
    obtain ⟨⟨t, o⟩, h1, h2⟩ := h
    obtain ⟨rfl, rfl, hle⟩ := boundedOutput_ok h2
    unfold compressRun at h1
    split at h1
    · simp only [Except.ok.injEq, Prod.mk.injEq] at h1
      obtain ⟨rfl, rfl⟩ := h1
      constructor <;> first | rfl | exact hle | simp [cmdInfo]
    · simp only [compressData, Run.bind_eq_ok] at h1
      obtain ⟨⟨nodes, root⟩, -, t, -, T, -, h3⟩ := h1
      simp only [Except.ok.injEq, Prod.mk.injEq] at h3
      obtain ⟨rfl, rfl⟩ := h3
      constructor <;> first | rfl | exact hle | simp [cmdInfo]
  case decompress =>
    rw [decompressBody, Run.bind_eq_ok] at h
    obtain ⟨⟨t, o⟩, h1, h2⟩ := h
    obtain ⟨rfl, rfl, hle⟩ := boundedOutput_ok h2
    cases S with
    | nil =>
      simp only [decompressRun, Except.ok.injEq, Prod.mk.injEq] at h1
      obtain ⟨rfl, rfl⟩ := h1
      constructor <;> first | rfl | exact hle | simp [cmdInfo]
    | cons p rest =>
      simp only [decompressRun, decompressData] at h1
      split at h1
      · simp [raise] at h1
      · simp only [Run.bind_eq_ok] at h1
        obtain ⟨nodes, -, bits, -, o, -, h3⟩ := h1
        simp only [Except.ok.injEq, Prod.mk.injEq] at h3
        obtain ⟨rfl, rfl⟩ := h3
        constructor <;> first | rfl | exact hle | simp [cmdInfo]
  case count =>
    simp only [countBody, Except.ok.injEq, Prod.mk.injEq] at h
    obtain ⟨rfl, rfl⟩ := h
    constructor <;> first | rfl | simp [cmdInfo]
  case build =>
    simp only [buildBody, Run.bind_eq_ok] at h
    obtain ⟨tree, -, h⟩ := h
    simp only [Except.ok.injEq, Prod.mk.injEq] at h
    obtain ⟨rfl, rfl⟩ := h
    constructor <;> first | rfl | simp [cmdInfo]
  case codegen =>
    unfold codegenBody at h
    split at h
    · simp [raise] at h
    · rw [Run.bind_eq_ok] at h
      obtain ⟨t, -, h⟩ := h
      simp only [Except.ok.injEq, Prod.mk.injEq] at h
      obtain ⟨rfl, rfl⟩ := h
      constructor <;> first | rfl | simp [cmdInfo]
  case serialize =>
    rw [serializeBody, Run.bind_eq_ok] at h
    obtain ⟨o, -, h⟩ := h
    obtain ⟨rfl, rfl, hle⟩ := boundedOutput_ok h
    constructor <;> first | rfl | exact hle | simp [cmdInfo]
  case deserialize =>
    rw [deserializeBody, Run.bind_eq_ok] at h
    obtain ⟨nodes, -, h⟩ := h
    simp only [Except.ok.injEq, Prod.mk.injEq] at h
    obtain ⟨rfl, rfl⟩ := h
    constructor <;> first | rfl | simp [cmdInfo]
  case encode =>
    rw [encodeBody, Run.bind_eq_ok] at h
    obtain ⟨bits, -, h⟩ := h
    obtain ⟨rfl, rfl, hle⟩ := boundedOutput_ok h
    constructor <;> first | rfl | exact hle | simp [cmdInfo]
  case decode =>
    unfold decodeBody at h
    split at h
    · simp [raise] at h
    · simp only [Run.bind_eq_ok] at h
      obtain ⟨bits, -, o, -, h⟩ := h
      obtain ⟨rfl, rfl, hle⟩ := boundedOutput_ok h
      constructor <;> first | rfl | exact hle | simp [cmdInfo]
  case packbits =>
    rw [packbitsBody, Run.bind_eq_ok] at h
    obtain ⟨bits, -, h⟩ := h
    obtain ⟨rfl, rfl, hle⟩ := boundedOutput_ok h
    constructor <;> first | rfl | exact hle | simp [cmdInfo]
  case unpackbits =>
    rw [unpackbitsBody, Run.bind_eq_ok] at h
    obtain ⟨bits, -, h⟩ := h
    obtain ⟨rfl, rfl, hle⟩ := boundedOutput_ok h
    constructor <;> first | rfl | exact hle | simp [cmdInfo]

/-! ### Errors: pseudocode never raises a start-check error, and `DST_OVERFLOW` names the length needed -/

/-- What a `raise` of a command's pseudocode can be: never an interface error, and `DST_OVERFLOW` only with the
saturated length of an output that does not fit. -/
def ContentError (cap : Word) (code : ErrorCode) (pos : Nat) : Prop :=
  (code ≠ .badCmd ∧ code ≠ .rangeSrc ∧ code ≠ .rangeDst ∧ code ≠ .overlap) ∧
    (code = .dstOverflow → ∃ n, cap.toNat < n ∧ pos = sat32 n)

theorem boundedOutput_error {cap : Word} {s : State} {out : List Byte} {code : ErrorCode} {pos : Nat}
    (h : boundedOutput cap s out = .error (.error code pos)) : ContentError cap code pos := by
  rcases boundedOutput_cases cap s out with ⟨hlt, h'⟩ | ⟨-, h'⟩
  · rw [h'] at h
    simp only [raise, Except.error.injEq, Raise.error.injEq] at h
    obtain ⟨rfl, rfl⟩ := h
    exact ⟨by simp, fun _ => ⟨_, hlt, rfl⟩⟩
  · rw [h'] at h; simp at h

theorem buildTree_error {f : FreqTable} {e : Raise} (h : buildTree f = .error e) : e = .error .emptyFreq 0 := by
  unfold buildTree at h
  split at h
  · simpa [raise] using h.symm
  · simp at h

theorem codes_error {nodes : List Node} {root : NodeIndex} {e : Raise} (h : codes nodes root = .error e) :
    e = .brokenArena ∨ ∃ sym : Byte, e = .error .dupSymbol sym.toNat := by
  unfold codes at h
  split at h
  · left; simpa using h.symm
  · split at h
    · right; exact ⟨_, by simpa [raise] using h.symm⟩
    · simp at h

theorem ser_error {nodes : List Node} {root : NodeIndex} {e : Raise} (h : ser nodes root = .error e) :
    e = .brokenArena := by
  unfold ser at h
  split at h
  · simp at h
  · split at h
    · simpa using h.symm
    · simp at h

theorem unpack_error {P : List Byte} {pad : Nat} {e : Raise} (h : unpack P pad = .error e) :
    e = .error .padRange 0 := by
  unfold unpack at h
  split at h
  · simpa [raise] using h.symm
  · simp at h

theorem walkFrom_error {nodes : List Node} {root n j : Nat} {bits : Bits} {e : Raise}
    (h : walkFrom nodes root n j bits = .error e) :
    e = .brokenArena ∨ ∃ k, e = .error .walkNoChild (sat32 k) ∨ e = .error .walkIncomplete (sat32 k) := by
  induction bits generalizing n j with
  | nil =>
    unfold walkFrom at h
    split at h
    · simp at h
    · right; exact ⟨j, .inr (by simpa [raise] using h.symm)⟩
  | cons b bits ih =>
    unfold walkFrom at h
    split at h
    · left; simpa using h.symm
    · right; exact ⟨j, .inl (by simpa [raise] using h.symm)⟩
    · simp only at h
      split at h
      · left; simpa using h.symm
      · rw [Run.bind_eq_error] at h
        rcases h with h | ⟨o, -, h⟩
        · exact ih h
        · simp at h
      · exact ih h

theorem bitsOfBytes_error {i : Nat} {S : List Byte} {e : Raise} (h : bitsOfBytes i S = .error e) :
    ∃ k, e = .error .badBit k := by
  induction S generalizing i with
  | nil => simp [bitsOfBytes] at h
  | cons b S ih =>
    unfold bitsOfBytes at h
    split at h
    · exact ⟨i, by simpa [raise] using h.symm⟩
    · rw [Run.bind_eq_error] at h
      rcases h with h | ⟨o, -, h⟩
      · exact ih h
      · simp at h

theorem encodeBits_error {t : CodeTable} {i : Nat} {S : List Byte} {e : Raise} (h : encodeBits t i S = .error e) :
    ∃ k, e = .error .noCode k := by
  induction S generalizing i with
  | nil => simp [encodeBits] at h
  | cons b S ih =>
    unfold encodeBits at h
    split at h
    · exact ⟨i, by simpa [raise] using h.symm⟩
    · rw [Run.bind_eq_error] at h
      rcases h with h | ⟨o, -, h⟩
      · exact ih h
      · simp at h

theorem utf8DecFrom_error {b : List Byte} {off skip : Nat} {e : Raise} (h : utf8DecFrom b off skip = .error e) :
    ∃ k, off ≤ k ∧ k < off + b.length ∧ e = .error .treeUtf8 k := by
  induction b generalizing off skip with
  | nil => simp [utf8DecFrom] at h
  | cons c b ih =>
    cases skip with
    | succ skip =>
      obtain ⟨k, h1, h2, h3⟩ := ih (by simpa [utf8DecFrom] using h)
      exact ⟨k, by omega, by simp only [List.length_cons]; omega, h3⟩
    | zero =>
      unfold utf8DecFrom at h
      split at h
      · exact ⟨off, le_refl _, by simp, by simpa [raise] using h.symm⟩
      · rw [Run.bind_eq_error] at h
        rcases h with h | ⟨o, -, h⟩
        · obtain ⟨k, h1, h2, h3⟩ := ih h
          exact ⟨k, by omega, by simp only [List.length_cons]; omega, h3⟩
        · simp at h

/-- The errors of `Parse` (42_serializer R143). -/
def ParseError (e : Raise) : Prop :=
  ∃ k, e = .error .treeExhausted k ∨ e = .error .treeMarker k ∨ e = .error .treeOverflow k ∨
    e = .error .treeTrailing k

theorem parseTree_error {stop fuel : Nat} {t : List Utf8Char} {k : Nat} {e : Raise}
    (h : parseTree stop fuel t k = .error e) : ParseError e := by
  induction fuel generalizing t k with
  | zero => exact ⟨stop, .inl (by simpa [parseTree, raise] using h.symm)⟩
  | succ fuel ih =>
    cases t with
    | nil => exact ⟨stop, .inl (by simpa [parseTree, raise] using h.symm)⟩
    | cons c t =>
      unfold parseTree at h
      split at h
      · exact ⟨c.off, .inr (.inl (by simpa [raise] using h.symm))⟩
      · split at h
        · exact ⟨c.off, .inr (.inr (.inl (by simpa [raise] using h.symm)))⟩
        · split at h
          · cases t with
            | nil => exact ⟨stop, .inl (by simpa [raise] using h.symm)⟩
            | cons sym t' => simp at h
          · simp only [Run.bind_eq_error] at h
            rcases h with h | ⟨l, -, h | ⟨r, -, h⟩⟩
            · exact ih h
            · exact ih h
            · simp at h

theorem deser_error {b : List Byte} {base : Nat} {e : Raise} (h : deser b base = .error e) :
    (∃ k, e = .error .treeUtf8 k) ∨ ParseError e := by
  simp only [deser, Run.bind_eq_error] at h
  rcases h with h | ⟨t, -, h | ⟨p, -, h⟩⟩
  · obtain ⟨k, -, -, rfl⟩ := utf8DecFrom_error h
    exact .inl ⟨k, rfl⟩
  · exact .inr (parseTree_error h)
  · split at h
    · simp at h
    · rename_i c _ _
      exact .inr ⟨c.off, .inr (.inr (.inr (by simpa [raise] using h.symm)))⟩

theorem ContentError.of_ne {cap : Word} {code : ErrorCode} {pos : Nat}
    (h : code ≠ .badCmd ∧ code ≠ .rangeSrc ∧ code ≠ .rangeDst ∧ code ≠ .overlap ∧ code ≠ .dstOverflow) :
    ContentError cap code pos :=
  ⟨⟨h.1, h.2.1, h.2.2.1, h.2.2.2.1⟩, fun h' => absurd h' h.2.2.2.2⟩

theorem ContentError.of_deser {cap : Word} {b : List Byte} {base : Nat} {code : ErrorCode} {pos : Nat}
    (h : deser b base = .error (.error code pos)) : ContentError cap code pos := by
  rcases deser_error h with ⟨k, h⟩ | ⟨k, h | h | h | h⟩ <;>
    (simp only [Raise.error.injEq] at h; obtain ⟨rfl, rfl⟩ := h; exact .of_ne (by simp))

theorem ContentError.of_walk {cap : Word} {nodes : List Node} {root : NodeIndex} {bits : Bits} {code : ErrorCode}
    {pos : Nat} (h : walk nodes root bits = .error (.error code pos)) : ContentError cap code pos := by
  rcases walkFrom_error h with h | ⟨k, h | h⟩
  · simp at h
  all_goals (simp only [Raise.error.injEq] at h; obtain ⟨rfl, rfl⟩ := h; exact .of_ne (by simp))

theorem ContentError.of_unpack {cap : Word} {P : List Byte} {pad : Nat} {code : ErrorCode} {pos : Nat}
    (h : unpack P pad = .error (.error code pos)) : ContentError cap code pos := by
  have := unpack_error h
  simp only [Raise.error.injEq] at this
  obtain ⟨rfl, rfl⟩ := this
  exact .of_ne (by simp)

theorem ContentError.of_buildTree {cap : Word} {f : FreqTable} {code : ErrorCode} {pos : Nat}
    (h : buildTree f = .error (.error code pos)) : ContentError cap code pos := by
  have := buildTree_error h
  simp only [Raise.error.injEq] at this
  obtain ⟨rfl, rfl⟩ := this
  exact .of_ne (by simp)

theorem ContentError.of_codes {cap : Word} {nodes : List Node} {root : NodeIndex} {code : ErrorCode} {pos : Nat}
    (h : codes nodes root = .error (.error code pos)) : ContentError cap code pos := by
  rcases codes_error h with h | ⟨sym, h⟩
  · simp at h
  · simp only [Raise.error.injEq] at h
    obtain ⟨rfl, rfl⟩ := h
    exact .of_ne (by simp)

theorem ser_not_raises {nodes : List Node} {root : NodeIndex} {code : ErrorCode} {pos : Nat} :
    ser nodes root ≠ .error (.error code pos) := fun h => by simpa using ser_error h

theorem bodyOf_error {i : Instr} {s : State} {S : List Byte} {code : ErrorCode} {pos : Nat}
    (h : bodyOf i s S = .error (.error code pos)) : ContentError s.dstCap code pos := by
  cases i <;> simp only [bodyOf] at h
  case compress =>
    rw [compressBody, Run.bind_eq_error] at h
    rcases h with h | ⟨⟨t, o⟩, -, h⟩
    · unfold compressRun at h
      split at h
      · simp at h
      · simp only [compressData, Run.bind_eq_error] at h
        rcases h with h | ⟨tree, -, h | ⟨ct, -, h | ⟨T, -, h⟩⟩⟩
        · exact .of_buildTree h
        · exact .of_codes h
        · exact absurd h ser_not_raises
        · simp at h
    · exact boundedOutput_error h
  case decompress =>
    rw [decompressBody, Run.bind_eq_error] at h
    rcases h with h | ⟨⟨t, o⟩, -, h⟩
    · cases S with
      | nil => simp [decompressRun] at h
      | cons p rest =>
        simp only [decompressRun, decompressData] at h
        split at h
        · simp only [raise, Except.error.injEq, Raise.error.injEq] at h
          obtain ⟨rfl, rfl⟩ := h
          exact .of_ne (by simp)
        · simp only [Run.bind_eq_error] at h
          rcases h with h | ⟨nodes, -, h | ⟨bits, -, h | ⟨o, -, h⟩⟩⟩
          · exact .of_deser h
          · exact .of_unpack h
          · exact .of_walk h
          · simp at h
    · exact boundedOutput_error h
  case count => simp [countBody] at h
  case build =>
    simp only [buildBody, Run.bind_eq_error] at h
    rcases h with h | ⟨tree, -, h⟩
    · exact .of_buildTree h
    · simp at h
  case codegen =>
    unfold codegenBody at h
    split at h
    · simp only [raise, Except.error.injEq, Raise.error.injEq] at h
      obtain ⟨rfl, rfl⟩ := h
      exact .of_ne (by simp)
    · rw [Run.bind_eq_error] at h
      rcases h with h | ⟨t, -, h⟩
      · exact .of_codes h
      · simp at h
  case serialize =>
    rw [serializeBody, Run.bind_eq_error] at h
    rcases h with h | ⟨o, -, h⟩
    · exact absurd h ser_not_raises
    · exact boundedOutput_error h
  case deserialize =>
    rw [deserializeBody, Run.bind_eq_error] at h
    rcases h with h | ⟨nodes, -, h⟩
    · exact .of_deser h
    · simp at h
  case encode =>
    rw [encodeBody, Run.bind_eq_error] at h
    rcases h with h | ⟨bits, -, h⟩
    · obtain ⟨k, h⟩ := encodeBits_error h
      simp only [Raise.error.injEq] at h
      obtain ⟨rfl, rfl⟩ := h
      exact .of_ne (by simp)
    · exact boundedOutput_error h
  case decode =>
    unfold decodeBody at h
    split at h
    · simp only [raise, Except.error.injEq, Raise.error.injEq] at h
      obtain ⟨rfl, rfl⟩ := h
      exact .of_ne (by simp)
    · simp only [Run.bind_eq_error] at h
      rcases h with h | ⟨bits, -, h | ⟨o, -, h⟩⟩
      · exact .of_unpack h
      · exact .of_walk h
      · exact boundedOutput_error h
  case packbits =>
    rw [packbitsBody, Run.bind_eq_error] at h
    rcases h with h | ⟨bits, -, h⟩
    · obtain ⟨k, h⟩ := bitsOfBytes_error h
      simp only [Raise.error.injEq] at h
      obtain ⟨rfl, rfl⟩ := h
      exact .of_ne (by simp)
    · exact boundedOutput_error h
  case unpackbits =>
    rw [unpackbitsBody, Run.bind_eq_error] at h
    rcases h with h | ⟨bits, -, h⟩
    · exact .of_unpack h
    · exact boundedOutput_error h

/-! ### The pseudocode and memory -/

theorem boundedOutput_withMem {cap : Word} {s s' : State} {out : List Byte} {m : Memory}
    (h : s' = { s with mem := m }) :
    boundedOutput cap s' out = (boundedOutput cap s out).map (fun r => ({ r.1 with mem := m }, r.2)) := by
  subst h; unfold boundedOutput; split <;> rfl

/-- The pseudocode of a command neither reads nor writes memory: it works on `S` (20_memory R73). -/
theorem bodyOf_withMem (i : Instr) (s : State) (S : List Byte) (m : Memory) :
    bodyOf i { s with mem := m } S = (bodyOf i s S).map (fun r => ({ r.1 with mem := m }, r.2)) := by
  cases i <;> simp only [bodyOf]
  case compress =>
    simp only [compressBody, compressRun]
    split
    · simp only [Run.ok_bind]
      exact boundedOutput_withMem rfl
    · simp only [compressData]
      rcases buildTree (countTable S) with e | tree <;> simp only [Run.ok_bind, Run.error_bind]
      · rfl
      · rcases codes tree.1 tree.2 with e | t <;> simp only [Run.ok_bind, Run.error_bind]
        · rfl
        · rcases ser tree.1 tree.2 with e | T <;> simp only [Run.ok_bind, Run.error_bind]
          · rfl
          · exact boundedOutput_withMem rfl
  case decompress =>
    simp only [decompressBody]
    cases S with
    | nil =>
      simp only [decompressRun, Run.ok_bind]
      exact boundedOutput_withMem rfl
    | cons p rest =>
      simp only [decompressRun, decompressData]
      cases findZero rest with
      | none => rfl
      | some j =>
        simp only
        rcases deser (rest.take j) 1 with e | nodes <;> simp only [Run.ok_bind, Run.error_bind]
        · rfl
        · rcases unpack (rest.drop (j + 1)) p.toNat with e | bits <;> simp only [Run.ok_bind, Run.error_bind]
          · rfl
          · rcases walk nodes 0 bits with e | o <;> simp only [Run.ok_bind, Run.error_bind]
            · rfl
            · exact boundedOutput_withMem rfl
  case count => rfl
  case build =>
    simp only [buildBody]
    rcases buildTree s.freq with e | tree <;> rfl
  case codegen =>
    simp only [codegenBody]
    split
    · rfl
    · rcases codes s.nodes s.root with e | t <;> rfl
  case serialize =>
    simp only [serializeBody]
    rcases ser s.nodes s.root with e | o <;> simp only [Run.ok_bind, Run.error_bind]
    · rfl
    · exact boundedOutput_withMem rfl
  case deserialize =>
    simp only [deserializeBody]
    rcases deser S 0 with e | nodes <;> rfl
  case encode =>
    simp only [encodeBody]
    rcases encodeBits s.ct 0 S with e | bits <;> simp only [Run.ok_bind, Run.error_bind]
    · rfl
    · exact boundedOutput_withMem rfl
  case decode =>
    simp only [decodeBody]
    split
    · rfl
    · rcases unpack S s.pad.toNat with e | bits <;> simp only [Run.ok_bind, Run.error_bind]
      · rfl
      · rcases walk s.nodes s.root bits with e | o <;> simp only [Run.ok_bind, Run.error_bind]
        · rfl
        · exact boundedOutput_withMem rfl
  case packbits =>
    simp only [packbitsBody]
    rcases bitsOfBytes 0 S with e | bits <;> simp only [Run.ok_bind, Run.error_bind]
    · rfl
    · exact boundedOutput_withMem rfl
  case unpackbits =>
    simp only [unpackbitsBody]
    rcases unpack S s.pad.toNat with e | bits <;> simp only [Run.ok_bind, Run.error_bind]
    · rfl
    · exact boundedOutput_withMem rfl

/-! ### What a command that answers a next state did -/

/-- The three ways a command completes: a start-check error, an error of its pseudocode, success. -/
theorem exec_next_cases {i : Instr} {s t : State} (h : exec i s = .next t) :
    (∃ code, startCheck (cmdInfo i) s = some code ∧ t = s.completeStartError code) ∨
    (startCheck (cmdInfo i) s = none ∧ platformCheck (cmdInfo i) s = none ∧
      ∃ code pos, bodyOf i s (s.snap.getD []) = .error (.error code pos) ∧ ContentError s.dstCap code pos ∧
        t = s.completeError (cmdInfo i) code pos) ∨
    (startCheck (cmdInfo i) s = none ∧ platformCheck (cmdInfo i) s = none ∧
      ∃ s' out, bodyOf i s (s.snap.getD []) = .ok (s', out) ∧ BodyWrites (cmdInfo i) s s' out ∧
        t = s'.completeOk out) := by
  rcases exec_cases i s with ⟨code, h1, h2⟩ | ⟨-, r, -, h2⟩ | ⟨h0, h1, ⟨s', out, hb, h2⟩ | ⟨code, pos, hb, h2⟩ | ⟨-, h2⟩⟩
  · rw [h2] at h; cases h; exact .inl ⟨code, h1, rfl⟩
  · rw [h2] at h; cases h
  · rw [h2] at h; cases h; exact .inr (.inr ⟨h0, h1, s', out, hb, bodyOf_ok hb, rfl⟩)
  · rw [h2] at h; cases h; exact .inr (.inl ⟨h0, h1, code, pos, hb, bodyOf_error hb, rfl⟩)
  · rw [h2] at h; cases h

/-- A command that completes leaves `BUSY` = 0 and `DONE` = 1, and holds nothing (30_encoding R105). -/
theorem exec_next_done {i : Instr} {s t : State} (h : exec i s = .next t) :
    t.busy = false ∧ t.done = true ∧ t.curOp = none ∧ t.snap = none := by
  rcases exec_next_cases h with ⟨code, -, rfl⟩ | ⟨-, -, code, pos, -, -, rfl⟩ | ⟨-, -, s', out, -, -, rfl⟩ <;>
    exact ⟨rfl, rfl, rfl, rfl⟩

end Sys2Proof.Machine
end

