-- ==== Sys2Proof/Laws/PerInstr.lean ====
section
/-! SUPPORT. Facts stated of every command and proved one by one. -/

namespace Sys2Proof.Laws

/-- The command word of a command decodes to it, whatever bits 31:8 of the word are (30_encoding R90, R91). -/
def Encoding.Statement (i : Instr) : Prop :=
  i.wf = true ∧ Sys2Proof.decode (Sys2Proof.encode i) = .ok i ∧ ∀ w, opField w = opcodeOf i → Sys2Proof.decode w = .ok i

theorem Encoding.compress : Encoding.Statement .compress := ⟨rfl, rfl, fun _ h => by rw [Sys2Proof.decode, h]; rfl⟩
theorem Encoding.decompress : Encoding.Statement .decompress := ⟨rfl, rfl, fun _ h => by rw [Sys2Proof.decode, h]; rfl⟩
theorem Encoding.count : Encoding.Statement .count := ⟨rfl, rfl, fun _ h => by rw [Sys2Proof.decode, h]; rfl⟩
theorem Encoding.build : Encoding.Statement .build := ⟨rfl, rfl, fun _ h => by rw [Sys2Proof.decode, h]; rfl⟩
theorem Encoding.codegen : Encoding.Statement .codegen := ⟨rfl, rfl, fun _ h => by rw [Sys2Proof.decode, h]; rfl⟩
theorem Encoding.serialize : Encoding.Statement .serialize := ⟨rfl, rfl, fun _ h => by rw [Sys2Proof.decode, h]; rfl⟩
theorem Encoding.deserialize : Encoding.Statement .deserialize := ⟨rfl, rfl, fun _ h => by rw [Sys2Proof.decode, h]; rfl⟩
theorem Encoding.encode : Encoding.Statement .encode := ⟨rfl, rfl, fun _ h => by rw [Sys2Proof.decode, h]; rfl⟩
theorem Encoding.decode : Encoding.Statement .decode :=
  ⟨rfl, rfl, fun _ h => by rw [Sys2Proof.decode, h]; rfl⟩
theorem Encoding.packbits : Encoding.Statement .packbits := ⟨rfl, rfl, fun _ h => by rw [Sys2Proof.decode, h]; rfl⟩
theorem Encoding.unpackbits : Encoding.Statement .unpackbits := ⟨rfl, rfl, fun _ h => by rw [Sys2Proof.decode, h]; rfl⟩

end Sys2Proof.Laws
end

