-- ==== Sys2Proof/Tests/Slice0.lean ====
section
/-! SUPPORT. Tests against the spec's own vectors (95_test_vectors), the smoke of the well-formedness checks, words
written out from the spec's encoding, and a witness for every statement that has hypotheses. -/

namespace Sys2Proof.Tests

open Sys2Proof Sys2Proof.Machine

/-! ### Helpers -/

/-- The reset state with `S` at 0x1000 as the source region and a destination region of `cap` bytes at 0x8000. -/
def loaded (S : List Byte) (cap : Nat) : State :=
  { State.reset with
    mem := Memory.writeRange [] 0x1000 S
    srcAddr := 0x1000#32
    srcLen := BitVec.ofNat 32 S.length
    dstAddr := 0x8000#32
    dstCap := BitVec.ofNat 32 cap }

/-- The state with the command just accepted. -/
def accepted (i : Instr) (s : State) : State := s.accept (encode i)

/-- The result is a next state that passes the test. -/
def nextIs (r : Result) (p : State → Bool) : Bool :=
  match r with
  | .next t => p t
  | .fault _ => false
  | .refused _ => false

theorem nextIs_exists {r : Result} {p : State → Bool} (h : nextIs r p = true) : ∃ t, r = .next t ∧ p t = true := by
  cases r with
  | next t => exact ⟨t, rfl, h⟩
  | fault _ => simp [nextIs] at h
  | refused _ => simp [nextIs] at h

/-- The refusal a step ends with. -/
def refusalOf (r : Result) : Option Refusal :=
  match r with
  | .next _ => none
  | .fault _ => none
  | .refused x => some x

theorem eq_of_refusalOf {r : Result} {x : Refusal} (h : refusalOf r = some x) : r = .refused x := by
  cases r with
  | next _ => simp [refusalOf] at h
  | fault _ => simp [refusalOf] at h
  | refused y => simpa [refusalOf] using h

/-- The completion record of a state. -/
def ended (t : State) (outLen : Nat) (code : Byte) (pos : Nat) : Bool :=
  t.outLen == BitVec.ofNat 32 outLen && t.errCode == code && t.errPos == BitVec.ofNat 32 pos && !t.busy && t.done

/-- The output at 0x8000. -/
def output (t : State) (out : List Byte) : Bool := Memory.readRange t.mem 0x8000 out.length == out

/-- The tree of "ab" (40_count_build R111). -/
def abNodes : List Node := [.leaf 0x61#8 1#32, .leaf 0x62#8 1#32, .internal 2#32 0#9 1#9]

/-- The code table of "ab". -/
def abCodes : CodeTable :=
  tableOfCodes [(0x61#8, [false]), (0x62#8, [true])]

/-- A state whose arena is the tree of "ab", with its code table. -/
def withAb (s : State) : State := { s with nodes := abNodes, root := 2#9, ct := abCodes, ctValid := true }

/-- A state whose arena is one leaf. -/
def withOneLeaf (s : State) : State := { s with nodes := [.leaf 0x61#8 4#32], root := 0#9 }

/-- Counts of "ab". -/
def abFreq : FreqTable := table (fun sym => if sym = 0x61#8 ∨ sym = 0x62#8 then 1#32 else 0#32)

/-! ### Well-formedness: each check refuses an ill-formed term (10_state R21, 30_encoding R100, 00_scope R6) -/

theorem test_wf_command : Instr.wf .compress = true := by decide
theorem test_wf_refuses_narrow_read : HostOp.wf (.csrRead .half 0x10#7) = false := by decide
theorem test_wf_refuses_misaligned_write : HostOp.wf (.csrWrite .word 0x12#7 5#32) = false := by decide
theorem test_wf_refuses_long_branch : HostProgram.wf [.branch .errcode 0xFF#32 5#32 2, csrr .errpos] = false := by
  decide
theorem test_wf_refuses_ill_formed_move : HostProgram.wf [csrr .id, .csrRead .byte 0x00#7] = false := by decide
theorem test_wf_accepts_program : HostProgram.wf (hostRun 0x01#32 ++ [csrr .status]) = true := by decide
theorem test_wf_refuses_misaligned_csr_base : csrBaseOk 0x40000002#32 = false := by decide
theorem test_wf_refuses_high_csr_base : csrBaseOk 0xFFFFFF84#32 = false := by decide
theorem test_wf_accepts_csr_base : csrBaseOk 0xFFFFFF80#32 = true ∧ csrBaseOk Config.resetCsrBase = true := by decide

/-! ### Decoding: a word per constructor, bits 7:0 from the map of 30_encoding R91, bits 31:8 ignored -/

theorem test_decode_compress : decode 0b00000000000000000000000000000001#32 = .ok .compress := rfl
theorem test_decode_decompress : decode 0b00000000000000000000000000000010#32 = .ok .decompress := rfl
theorem test_decode_count : decode 0b00000000000000000000000000000011#32 = .ok .count := rfl
theorem test_decode_build : decode 0b00000000000000000000000000000100#32 = .ok .build := rfl
theorem test_decode_codegen : decode 0b00000000000000000000000000000101#32 = .ok .codegen := rfl
theorem test_decode_serialize : decode 0b00000000000000000000000000000110#32 = .ok .serialize := rfl
theorem test_decode_deserialize : decode 0b00000000000000000000000000000111#32 = .ok .deserialize := rfl
theorem test_decode_encode : decode 0b00000000000000000000000000001000#32 = .ok .encode := rfl
theorem test_decode_decode : decode 0b00000000000000000000000000001001#32 = .ok .decode := rfl
theorem test_decode_packbits : decode 0b00000000000000000000000000001010#32 = .ok .packbits := rfl
theorem test_decode_unpackbits : decode 0b11111111111111111111111100001011#32 = .ok .unpackbits := rfl
theorem test_decode_reserved : decode 0x0000000C#32 = .error (.reservedOpcode 0x0C#8) := rfl
theorem test_decodeTableWord : decodeTableWord 8 0x0B = some .unpackbits ∧ decodeTableWord 8 0x00 = none := by decide

/-! ### One step of each command (95_test_vectors part 2) -/

/-- V-C2. -/
theorem test_compress : nextIs (step ((loaded [0x61#8, 0x62#8] 64).withFetchWord 8 0x01)) (fun t =>
    ended t 8 0 0 && output t [0x06#8, 0x30#8, 0x31#8, 0x61#8, 0x31#8, 0x62#8, 0x00#8, 0x40#8] && t.pad == 6#8 &&
      t.ctValid && t.nodes.length == 3) = true := by decide +kernel

/-- V-C12, as far as COMPRESS goes: a zero symbol. -/
theorem test_compress_zero_symbol : nextIs (step ((loaded [0#8, 0#8, 0#8] 64).withFetchWord 8 0x01)) (fun t =>
    ended t 4 0 0 && output t [0x00#8, 0x31#8, 0x00#8, 0x00#8]) = true := by decide +kernel

/-- V-X12. -/
theorem test_decompress : nextIs
    (step ((loaded [0x00#8, 0x30#8, 0x31#8, 0x61#8, 0x31#8, 0x62#8, 0x00#8, 0xE0#8] 64).withFetchWord 8 0x02)) (fun t =>
    ended t 8 0 0 && output t [0x62#8, 0x62#8, 0x62#8, 0x61#8, 0x61#8, 0x61#8, 0x61#8, 0x61#8] && t.pad == 0#8 &&
      t.root == 0#9 && !t.ctValid) = true := by decide +kernel

/-- V-X7. -/
theorem test_decompress_trailing : nextIs
    (step ((loaded [0x00#8, 0x30#8, 0x31#8, 0x61#8, 0x31#8, 0x62#8, 0x31#8, 0x63#8, 0x00#8, 0x40#8] 64).withFetchWord
      8 0x02)) (fun t => ended t 0 0x24#8 6 && t.nodes == []) = true := by decide +kernel

/-- V-F3. -/
theorem test_count : nextIs (step ((loaded [0x00#8, 0x00#8, 0xFF#8] 64).withFetchWord 8 0x03)) (fun t =>
    ended t 0 0 0 && entry t.freq 0x00#8 == 2#32 && entry t.freq 0xFF#8 == 1#32 && entry t.freq 0x01#8 == 0#32) =
    true := by decide +kernel

/-- V-F5. -/
theorem test_count_range : nextIs
    (step ({ loaded [] 64 with srcAddr := 0xFFFFFFF0#32, srcLen := 0x11#32, freq := abFreq }.withFetchWord 8 0x03))
    (fun t => ended t 0 0x02#8 0 && entry t.freq 0x61#8 == 1#32) = true := by decide +kernel

/-- V-B2. -/
theorem test_build : nextIs (step ({ State.reset with
      freq := table (fun sym => if 0x61 ≤ sym.toNat ∧ sym.toNat ≤ 0x63 then 1#32 else 0#32) }.withFetchWord 8 0x04))
    (fun t => ended t 0 0 0 && t.root == 4#9 && t.nodes == [.leaf 0x61#8 1#32, .leaf 0x62#8 1#32, .leaf 0x63#8 1#32,
      .internal 2#32 0#9 1#9, .internal 3#32 2#9 3#9]) = true := by decide +kernel

/-- V-B5. -/
theorem test_build_no_counts : nextIs (step ((withAb State.reset).withFetchWord 8 0x04)) (fun t =>
    ended t 0 0x10#8 0 && t.nodes == [] && !t.ctValid) = true := by decide +kernel

/-- V-G1, on the tree of V-B2: c "0", a "10", b "11". -/
theorem test_codegen : nextIs (step ({ State.reset with root := 4#9, nodes := [.leaf 0x61#8 1#32, .leaf 0x62#8 1#32,
      .leaf 0x63#8 1#32, .internal 2#32 0#9 1#9, .internal 3#32 2#9 3#9] }.withFetchWord 8 0x05)) (fun t =>
    ended t 0 0 0 && entry t.ct 0x63#8 == some [false] && entry t.ct 0x61#8 == some [true, false] &&
      entry t.ct 0x62#8 == some [true, true] && entry t.ct 0x64#8 == none) = true := by decide +kernel

/-- V-G4. -/
theorem test_codegen_dup : nextIs (step ({ State.reset with
      nodes := [.internal 0#32 1#9 2#9, .leaf 0x61#8 0#32, .leaf 0x61#8 0#32] }.withFetchWord 8 0x05)) (fun t =>
    ended t 0 0x12#8 0x61 && t.nodes.length == 3) = true := by decide +kernel

/-- V-S5: bytes at and above 0x80 take two bytes. -/
theorem test_serialize : nextIs (step ({ loaded [] 64 with root := 4#9, nodes := [.leaf 0x41#8 2#32, .leaf 0x80#8 1#32,
      .leaf 0xFF#8 1#32, .internal 2#32 1#9 2#9, .internal 4#32 0#9 3#9] }.withFetchWord 8 0x06)) (fun t =>
    ended t 10 0 0 && output t [0x30#8, 0x31#8, 0x41#8, 0x30#8, 0x31#8, 0xC2#8, 0x80#8, 0x31#8, 0xC3#8, 0xBF#8]) =
    true := by decide +kernel

/-- V-S8. -/
theorem test_serialize_range : nextIs
    (step ({ State.reset with dstAddr := 0xFFFFFFFF#32, dstCap := 2#32 }.withFetchWord 8 0x06))
    (fun t => ended t 0 0x03#8 0) = true := by decide +kernel

/-- V-T6. -/
theorem test_deserialize : nextIs
    (step ((loaded [0x30#8, 0x30#8, 0x31#8, 0x61#8, 0x31#8, 0x62#8, 0x31#8, 0x63#8] 64).withFetchWord 8 0x07)) (fun t =>
    ended t 0 0 0 && t.nodes == [.internal 0#32 1#9 4#9, .internal 0#32 2#9 3#9, .leaf 0x61#8 0#32, .leaf 0x62#8 0#32,
      .leaf 0x63#8 0#32]) = true := by decide +kernel

/-- V-T11. -/
theorem test_deserialize_surrogate : nextIs (step ((loaded [0x31#8, 0xED#8, 0xA0#8, 0x80#8] 64).withFetchWord 8 0x07))
    (fun t => ended t 0 0x21#8 1) = true := by decide +kernel

/-- V-E1 on the table of "ab" is V-C2's payload: "01" packs to 0x40 with 6 padding bits. -/
theorem test_encode : nextIs (step ((withAb (loaded [0x61#8, 0x62#8] 64)).withFetchWord 8 0x08)) (fun t =>
    ended t 1 0 0 && output t [0x40#8] && t.pad == 6#8) = true := by decide +kernel

/-- V-E2: "abz". -/
theorem test_encode_no_code : nextIs (step ((withAb (loaded [0x61#8, 0x62#8, 0x7A#8] 64)).withFetchWord 8 0x08))
    (fun t => ended t 0 0x13#8 2 && t.pad == 0#8 && t.ctValid) = true := by decide +kernel

/-- V-D9. -/
theorem test_decode : nextIs (step ((withAb (loaded [0xE0#8] 64)).withFetchWord 8 0x09)) (fun t =>
    ended t 8 0 0 && output t [0x62#8, 0x62#8, 0x62#8, 0x61#8, 0x61#8, 0x61#8, 0x61#8, 0x61#8]) = true := by
  decide +kernel

/-- V-D5. -/
theorem test_decode_one_leaf : nextIs (step ({ withOneLeaf (loaded [0x80#8] 64) with pad := 7#8 }.withFetchWord 8 0x09))
    (fun t => ended t 0 0x27#8 0 && t.nodes.length == 1 && t.pad == 7#8) = true := by decide +kernel

/-- V-P5. -/
theorem test_packbits : nextIs
    (step ((loaded [1#8, 0#8, 1#8, 0#8, 1#8, 0#8, 1#8, 0#8, 1#8] 64).withFetchWord 8 0x0A)) (fun t =>
    ended t 2 0 0 && output t [0xAA#8, 0x80#8] && t.pad == 7#8) = true := by decide +kernel

/-- 43_bitstream R173: a byte above 1 is `BAD_BIT` at its offset. -/
theorem test_packbits_bad_bit : nextIs (step ((loaded [1#8, 2#8] 64).withFetchWord 8 0x0A))
    (fun t => ended t 0 0x14#8 1) = true := by decide +kernel

/-- V-U1: non-zero padding bits are ignored. -/
theorem test_unpackbits : nextIs (step ({ loaded [0xC7#8] 64 with pad := 5#8 }.withFetchWord 8 0x0B)) (fun t =>
    ended t 3 0 0 && output t [1#8, 1#8, 0#8] && t.pad == 5#8) = true := by decide +kernel

/-- V-U4. -/
theorem test_unpackbits_pad : nextIs (step ({ loaded [] 64 with pad := 3#8 }.withFetchWord 8 0x0B))
    (fun t => ended t 0 0x26#8 0) = true := by decide +kernel

/-! ### Interface (95_test_vectors 2.9) -/

/-- V-I1. -/
theorem test_reserved_opcode : nextIs (hostMove (csrw .cmd 0x0C#32) State.reset) (fun t =>
    ended t 0 0x01#8 0 && t.csrValue .cmd == 0x0C#32 && t.csrValue .status == 0x06#32) = true := by decide +kernel

/-- V-I4. -/
theorem test_overlap : nextIs (step ({ loaded [] 1 with srcLen := 0x10#32, dstAddr := 0x100F#32 }.withFetchWord 8 0x01))
    (fun t => ended t 0 0x04#8 0) = true := by decide +kernel

/-- 95_test_vectors P1 line 13, `csrw SRC_LEN, [OUT_LEN]`: W 0x1C 0x00000013. -/
theorem test_transaction_write_from :
    { State.reset with readLog := [.csr 0x28#7 0x13#32] }.transaction (.csrWriteFrom .srcLen .outLen) =
      some ⟨true, 0x40000000 + 0x1C, 0x13#32⟩ := by decide

/-- 20_memory R83, 93 U10: on a platform that is not coherent a command has its effect, the host owing maintenance. -/
theorem test_not_coherent : nextIs (step ({ loaded [1#8, 1#8, 0#8] 64 with
      platform := ⟨0x40000000#32, false, []⟩ }.withFetchWord 8 0x0A)) (fun t =>
    ended t 1 0 0 && output t [0xC0#8]) = true := by decide +kernel

/-- The window reads after V-B1 and V-G1, on the tree of "ab". -/
theorem test_windows : nextIs (.next { withAb State.reset with nodeSel := 2#9, codeSel := 0x62#8 }) (fun t =>
    t.csrValue .nodeInfo == 0x200#32 && t.csrValue .nodeWeight == 2#32 && t.csrValue .nodeChild == 0x10000#32 &&
      t.csrValue .codeInfo == 0x101#32 && t.csrValue (.codeW 0) == 0x80000000#32) = true := by decide +kernel

/-! ### Witnesses: each statement with hypotheses has a state that meets them -/

/-- A command of "ab" just accepted, the arena and the code table those of "ab". -/
def flying (i : Instr) : State := accepted i (withAb (loaded [0x61#8, 0x62#8] 64))

theorem abNodes_arenaOk : ArenaOk abNodes 2#9 :=
  ⟨by decide, .inr ⟨.node 2 (.leaf 0 0x61#8) (.leaf 1 0x62#8), by decide, by decide, by decide⟩⟩

theorem oneLeaf_arenaOk : ArenaOk [.leaf 0x61#8 4#32] 0#9 :=
  ⟨by decide, .inr ⟨.leaf 0 0x61#8, by decide, by decide, by decide⟩⟩

/-- StepRunsTheDecodedCommand, both turns. -/
theorem witness_StepRunsTheDecodedCommand :
    (∃ (s : State) (op : Byte), s.busy = true ∧ s.curOp = some op ∧ decodeOp op = .ok .count ∧ s.agenda = []) ∧
      ∃ (s : State) (op : Byte) (rest : List Agent), s.busy = true ∧ s.curOp = some op ∧ decodeOp op = .ok .unpackbits ∧ s.agenda = .core :: rest :=
  ⟨⟨flying .count, 0x03#8, rfl, rfl, rfl, rfl⟩,
    ⟨{ flying .unpackbits with agenda := [.core] }, 0x0B#8, [], rfl, rfl, rfl, rfl⟩⟩

/-- StepPerformsTheHostsMove, both turns and the idle machine. -/
theorem witness_StepPerformsTheHostsMove :
    (∃ (s : State) (op : HostOp) (prog : HostProgram) (rest : List Agent), s.program = op :: prog ∧
      s.agenda = .host :: rest ∧ s.busy = true) ∧
    (∃ (s : State) (op : HostOp) (prog : HostProgram), s.program = op :: prog ∧ s.agenda = [] ∧ s.busy = false) ∧
    (State.reset.program = [] ∧ State.reset.busy = false ∧ State.reset.agenda = []) :=
  ⟨⟨{ flying .count with program := [csrr .id], agenda := [.host] }, csrr .id, [], [], rfl, rfl, rfl⟩,
    ⟨{ State.reset with program := [csrr .id] }, csrr .id, [], rfl, rfl, rfl⟩, rfl, rfl, rfl⟩

/-- CommandInFlightEnds, with host moves still before the core's turn. -/
theorem witness_CommandInFlightEnds :
    { flying .build with program := [csrr .id], agenda := [.host, .host] }.inFlight = some .build := rfl

/-- HostMovesLeaveResultsAlone: a `PAD` write. -/
theorem witness_HostMovesLeaveResultsAlone :
    ∃ t, hostMove (csrw .pad 5#32) State.reset = .next t ∧ (csrw .pad 5#32) ≠ .hardReset ∧
      (∀ d, csrw .pad 5#32 ≠ .csrWrite .word Csr.cmd.offset d) ∧
      (∀ d, csrw .pad 5#32 ≠ .csrWrite .word Csr.ctrl.offset d) ∧ (∀ c, csrw .pad 5#32 ≠ .csrWriteFrom .cmd c) ∧
      (∀ c, csrw .pad 5#32 ≠ .csrWriteFrom .ctrl c) :=
  ⟨_, rfl, by simp [csrw], by simp [csrw, Csr.offset], by simp [csrw, Csr.offset], by simp [csrw], by simp [csrw]⟩

/-- CmdWriteAcceptance, one state a clause, reserved opcodes at both ends of each range. -/
theorem witness_CmdWriteAcceptance :
    (flying .count).busy = true ∧ State.reset.busy = false ∧ (¬∃ i, decode 0x00#32 = .ok i) ∧
      (¬∃ i, decode 0x0C#32 = .ok i) ∧ (¬∃ i, decode 0xFF#32 = .ok i) ∧ decode 0x01#32 = .ok .compress ∧
      decode 0xFFFFFF0B#32 = .ok .unpackbits ∧ (0xFFFFFFF0#32).toNat + (0x10#32).toNat ≤ 2 ^ 32 :=
  ⟨rfl, rfl, by rw [show decode 0x00#32 = .error (.reservedOpcode 0x00#8) from rfl]; simp,
    by rw [show decode 0x0C#32 = .error (.reservedOpcode 0x0C#8) from rfl]; simp,
    by rw [show decode 0xFF#32 = .error (.reservedOpcode 0xFF#8) from rfl]; simp, rfl, rfl, by decide⟩

/-- CsrWrites: bit 1 of the value, `BUSY`, the registers of the first and the last clause. -/
theorem witness_CsrWrites :
    (flying .count).busy = true ∧ State.reset.busy = false ∧ (0x2#32).getLsbD 1 = true ∧ (0x1#32).getLsbD 1 = false ∧
      Csr.pad ∈ [Csr.cmd, .srcAddr, .srcLen, .dstAddr, .dstCap, .pad] ∧ (∃ k, Csr.codeW 7 = .codeW k) :=
  ⟨rfl, rfl, by decide, by decide, by decide, 7, rfl⟩

/-- CsrReads: an idle and a busy state. -/
theorem witness_CsrReads : State.reset.busy = false ∧ (flying .decode).busy = true := ⟨rfl, rfl⟩

/-- CsrAccessWidthAndAlignment: the lowest and the highest offset, the reserved one, and two bad accesses. -/
theorem witness_CsrAccessWidthAndAlignment :
    (0x00#7).toNat % 4 = 0 ∧ (0x7C#7).toNat % 4 = 0 ∧ ¬(AccessWidth.half = .word ∧ (0x00#7).toNat % 4 = 0) ∧
      ¬(AccessWidth.word = .word ∧ (0x7F#7).toNat % 4 = 0) := by decide

/-- NodeWindow: the first invalid index, a leaf, the last node. -/
theorem witness_NodeWindow :
    { withAb State.reset with nodeSel := 3#9 }.nodeCount ≤ (3#9).toNat ∧
      (withAb State.reset).nodes[(1#9).toNat]? = some (.leaf 0x62#8 1#32) ∧
      (withAb State.reset).nodes[(2#9).toNat]? = some (.internal 2#32 0#9 1#9) := by decide

/-- CodeWindow: an absent entry, the empty code, the longest code. -/
theorem witness_CodeWindow :
    entry abCodes 0xFF#8 = none ∧ entry (table (fun sym => if sym = 0#8 then some ([] : Bits) else none)) 0#8 = some [] ∧
      entry (table (fun _ => some (List.replicate 255 true))) 0#8 = some (List.replicate 255 true) ∧
      (List.replicate 255 true).length ≤ 255 := by decide +kernel

/-- RegisterValues: the largest arena. -/
theorem witness_RegisterValues : (List.replicate 511 (Node.leaf 0#8 0#32)).length ≤ 511 :=
  List.length_replicate.le

/-- InterruptLine: each clause's next state. -/
theorem witness_InterruptLine :
    (∃ t, exec .packbits (loaded [] 0) = .next t) ∧ (∃ t, hostMove (csrw .status 0x2#32) State.reset = .next t) ∧
      (State.reset.busy = false ∧ decode 0x03#32 = .ok .count ∧ ∃ t, hostMove (csrw .cmd 0x03#32) State.reset = .next t) ∧
      (∃ t, hostMove (csrw .ctrl 0x0#32) State.reset = .next t) ∧ (∃ t, hostMove .hardReset State.reset = .next t) :=
  have next {r : Result} (h : nextIs r (fun _ => true) = true) : ∃ t, r = .next t :=
    let ⟨t, ht, _⟩ := nextIs_exists h
    ⟨t, ht⟩
  ⟨next (by decide +kernel), next (by decide +kernel), ⟨rfl, rfl, next (by decide +kernel)⟩,
    next (by decide +kernel), next (by decide +kernel)⟩

/-- ResetEffect: the soft reset bit, a command without a destination in flight. -/
theorem witness_ResetEffect :
    (0x3#32).getLsbD 1 = true ∧ ∀ i, (flying .count).inFlight = some i → (cmdInfo i).writesDst = false :=
  ⟨by decide, fun i h => by cases h; rfl⟩

/-- ResetValues: nothing in flight. -/
theorem witness_ResetValues : State.reset.inFlight = none ∧ ∃ t, hostMove .hardReset State.reset = .next t :=
  have ⟨t, h, _⟩ := nextIs_exists (p := fun _ => true)
    (show nextIs (hostMove .hardReset State.reset) _ = true by decide +kernel)
  ⟨rfl, t, h⟩

/-- HazardWhileBusy: nothing in flight, inside and outside the window; and: the regions of an ENCODE in flight; the first and the last byte of each and the bytes beside
them, none of them in the CSR window. -/
theorem witness_HazardWhileBusy :
    State.reset.inFlight = none ∧ State.reset.csrWindow.contains 0x4000007F = true ∧
      State.reset.csrWindow.contains 0x40000080 = false ∧
      (flying .encode).inFlight = some .encode ∧ (flying .encode).srcRegion = ⟨0x1000, 2⟩ ∧
      (flying .encode).dstRegion = ⟨0x8000, 0x40⟩ ∧ (flying .encode).csrWindow = ⟨0x40000000, 0x80⟩ ∧
      (Region.contains ⟨0x1000, 2⟩ 0x1000 && Region.contains ⟨0x1000, 2⟩ 0x1001 &&
        !Region.contains ⟨0x1000, 2⟩ 0x0FFF && !Region.contains ⟨0x1000, 2⟩ 0x1002 &&
        Region.contains ⟨0x8000, 0x40⟩ 0x8000 && Region.contains ⟨0x8000, 0x40⟩ 0x803F &&
        !Region.contains ⟨0x8000, 0x40⟩ 0x7FFF && !Region.contains ⟨0x8000, 0x40⟩ 0x8040 &&
        !Region.contains ⟨0x40000000, 0x80⟩ 0x8040) = true :=
  ⟨rfl, by decide, by decide, rfl, rfl, rfl, rfl, by decide⟩

/-- StartChecksInOrder: each clause at its boundary: one byte too many; the highest region that fits. -/
theorem witness_StartChecksInOrder :
    (0xFFFFFFF0#32).toNat + (0x11#32).toNat > 2 ^ 32 ∧ ¬(0xFFFFFFF0#32).toNat + (0x10#32).toNat > 2 ^ 32 ∧
      startCheck (cmdInfo .compress) { loaded [] 2 with dstAddr := 0xFFFFFFFF#32 } = some .rangeDst ∧
      startCheck (cmdInfo .compress)
        { loaded [] 2 with srcAddr := 0xFFFFFFF8#32, srcLen := 16#32, dstAddr := 0xFFFFFFFF#32 } = some .rangeSrc ∧
      startCheck (cmdInfo .compress) { loaded [] 1 with srcLen := 0x10#32, dstAddr := 0x100F#32 } = some .overlap ∧
      startCheck (cmdInfo .compress) { loaded [] 1 with srcLen := 0x10#32, dstAddr := 0x1010#32 } = none := by decide

/-- PlatformRefusals: each refusal arises, from start checks that pass and a byte that both regions hold. -/
theorem witness_PlatformRefusals :
    startCheck (cmdInfo .count) { loaded [1#8] 0 with srcAddr := 0x4000007F#32 } = none ∧
      (Region.contains ⟨0x4000007F, 1⟩ 0x4000007F && Region.contains ⟨0x40000000, 0x80⟩ 0x4000007F) = true ∧
      startCheck (cmdInfo .count) (loaded [1#8] 0) = none ∧
      (Region.contains ⟨0x1000, 1⟩ 0x1000 && !Region.contains ⟨0x40000000, 0x80⟩ 0x1000) = true ∧
      refusalOf (exec .count { loaded [1#8] 0 with srcAddr := 0x4000007F#32 }) = some .regionCoversCsrWindow ∧
      refusalOf (exec .count { loaded [1#8] 0 with platform := ⟨0x40000000#32, true, [⟨0x1000, 1⟩]⟩ }) = some .memoryCanFail := by
  decide +kernel

/-- ErrorEffects: a start-check error and a content error. -/
theorem witness_ErrorEffects :
    (∃ t, exec .count { loaded [] 0 with srcAddr := 0xFFFFFFFF#32, srcLen := 2#32 } = .next t ∧ t.errCode = 0x02#8) ∧
      ∃ t, exec .build (withAb State.reset) = .next t ∧ t.errCode = 0x10#8 := by
  obtain ⟨t, h, h'⟩ := nextIs_exists (p := fun t => t.errCode == 0x02#8)
    (show nextIs (exec .count { loaded [] 0 with srcAddr := 0xFFFFFFFF#32, srcLen := 2#32 }) _ = true by decide +kernel)
  obtain ⟨u, hu, hu'⟩ := nextIs_exists (p := fun t => t.errCode == 0x10#8)
    (show nextIs (exec .build (withAb State.reset)) _ = true by decide +kernel)
  exact ⟨⟨t, h, by simpa using h'⟩, u, hu, by simpa using hu'⟩

/-- DestinationWrites, WriteSets, ResultDependsOnlyOnTheSnapshot: a command that reads, writes and succeeds. -/
theorem witness_DestinationWrites : ∃ t, exec .encode (flying .encode) = .next t ∧ t.errCode = 0 := by
  obtain ⟨t, h, h'⟩ := nextIs_exists (p := fun t => t.errCode == 0#8)
    (show nextIs (exec .encode (flying .encode)) _ = true by decide +kernel)
  exact ⟨t, h, by simpa using h'⟩

/-- EveryCommandCompletes. -/
theorem witness_EveryCommandCompletes :
    ArenaOk (flying .decode).nodes (flying .decode).root ∧ ∀ i : Instr, platformCheck (cmdInfo i) (flying i) = none :=
  ⟨abNodes_arenaOk, fun i => by cases i <;> decide⟩

/-- Every command can run, its source snapshot is the source region. -/
theorem canRun_flying (i : Instr) : CanRun i (flying i) := by cases i <;> exact ⟨by decide, by decide⟩

theorem sourceIs_flying (i : Instr) : SourceIs (flying i) [0x61#8, 0x62#8] := by cases i <;> exact ⟨rfl, by decide⟩

/-- CountResult. -/
theorem witness_CountResult : SourceIs (flying .count) [0x61#8, 0x62#8] ∧ CanRun .count (flying .count) :=
  ⟨sourceIs_flying _, canRun_flying _⟩

/-- BuildResult: two symbols present; the largest sum; no symbol present. -/
theorem witness_BuildResult :
    presentSymbols abFreq ≠ [] ∧ totalCount abFreq ≤ 0xFFFFFFFF ∧
      totalCount (table (fun sym => if sym = 0#8 then 0xFFFFFFFF#32 else 0#32)) ≤ 0xFFFFFFFF ∧
      ∀ sym, entry State.reset.freq sym = 0 := by decide +kernel

/-- BuiltTreeIsOptimal: two symbols present; a prefix code of them. -/
theorem witness_BuiltTreeIsOptimal :
    2 ≤ (presentSymbols abFreq).length ∧ totalCount abFreq ≤ 0xFFFFFFFF ∧ ¬([false, false] <+: [false, true]) := by
  decide +kernel

/-- MergeTakesTheTwoLeast. -/
theorem witness_MergeTakesTheTwoLeast :
    totalCount abFreq ≤ 0xFFFFFFFF ∧
      ∃ t, exec .build { State.reset with freq := abFreq } = .next t ∧ t.nodes[2]? = some (.internal 2#32 0#9 1#9) := by
  obtain ⟨t, h, h'⟩ := nextIs_exists (p := fun t => t.nodes[2]? == some (.internal 2#32 0#9 1#9))
    (show nextIs (exec .build { State.reset with freq := abFreq }) _ = true by decide +kernel)
  exact ⟨by decide +kernel, t, h, by simpa using h'⟩

/-- CodegenResult. -/
theorem witness_CodegenResult :
    ArenaOk (flying .codegen).nodes (flying .codegen).root ∧ (flying .codegen).nodes ≠ [] ∧
      (leafSymbols (flying .codegen).nodes).Nodup := ⟨abNodes_arenaOk, by decide, by decide⟩

/-- CodegenErrors: an empty arena; a repeated symbol. -/
theorem witness_CodegenErrors :
    State.reset.nodes = [] ∧
      ∃ tr, arenaTree [.internal 0#32 1#9 2#9, .leaf 0x61#8 0#32, .leaf 0x61#8 0#32] 0#9 = some tr ∧
        tr.leafSyms = [0x61#8] ++ 0x61#8 :: [] ∧ [0x61#8].Nodup ∧ 0x61#8 ∈ [0x61#8] :=
  ⟨rfl, .node 0 (.leaf 1 0x61#8) (.leaf 2 0x61#8), by decide, by decide, by decide, by decide⟩

/-- CodesArePrefixFree, CodeLengthBound: two leaves, each with a code. -/
theorem witness_CodesArePrefixFree :
    ArenaOk abNodes 2#9 ∧ 2 ≤ leafCount abNodes ∧ codes abNodes 2#9 = .ok abCodes ∧
      entry abCodes 0x61#8 = some [false] ∧ entry abCodes 0x62#8 = some [true] :=
  ⟨abNodes_arenaOk, by decide, by rfl, by decide +kernel, by decide +kernel⟩

/-- SerializeResult: an arena that fits, one that does not, an empty one. -/
theorem witness_SerializeResult :
    ∃ tr, arenaTree abNodes 2#9 = some tr ∧ CanRun .serialize (flying .serialize) ∧
      tr.ser.length ≤ (flying .serialize).dstCap.toNat ∧ (4#32).toNat < tr.ser.length ∧
      CanRun .serialize (accepted .serialize State.reset) ∧ (accepted .serialize State.reset).nodes = [] :=
  ⟨.node 2 (.leaf 0 0x61#8) (.leaf 1 0x62#8), by decide, canRun_flying _, by decide, by decide,
    ⟨by decide, by decide⟩, rfl⟩

/-- SerializedLength, SerializedZeroBytes, DeserInvertsSer: a non-empty arena with its text; the empty one. -/
theorem witness_SerializedLength :
    ArenaOk abNodes 2#9 ∧ abNodes ≠ [] ∧ (leafSymbols abNodes).Nodup ∧
      ser abNodes 2#9 = .ok [0x30#8, 0x31#8, 0x61#8, 0x31#8, 0x62#8] ∧ ArenaOk [] 0#9 :=
  ⟨abNodes_arenaOk, by decide, by decide, by rfl, by decide, .inl ⟨rfl, rfl⟩⟩

/-- DeserializeResult. -/
theorem witness_DeserializeResult :
    ∃ (tr : Tree) (S : List Byte) (s : State), ArenaOk abNodes 2#9 ∧ arenaTree abNodes 2#9 = some tr ∧
      ser abNodes 2#9 = .ok S ∧ s.snap = some S ∧ CanRun .deserialize s :=
  ⟨.node 2 (.leaf 0 0x61#8) (.leaf 1 0x62#8), [0x30#8, 0x31#8, 0x61#8, 0x31#8, 0x62#8],
    accepted .deserialize (loaded [0x30#8, 0x31#8, 0x61#8, 0x31#8, 0x62#8] 0), abNodes_arenaOk, by decide, by rfl,
    by rfl, by decide, by decide⟩

/-- DeserializeErrors: V-T5 is accepted; V-T11, V-T2, V-T3, V-T7, V-T9 and a 512th node (as in V-T19) are each error, at
its offset. -/
theorem witness_TextError :
    TextAccepted [0x30#8, 0x31#8, 0x61#8, 0x31#8, 0x62#8] [0x30, 0x31, 0x61, 0x31, 0x62] 3 ∧
      TextError [0x31#8, 0xED#8, 0xA0#8, 0x80#8] 0 0x21#8 1 ∧ TextError [0x30#8] 0 0x22#8 1 ∧
      TextError [0x31#8] 0 0x22#8 1 ∧ TextError [0x32#8] 0 0x23#8 0 ∧
      TextError [0x31#8, 0x61#8, 0x31#8, 0x62#8] 0 0x24#8 2 ∧
      TextError (utf8Text (List.replicate 512 0x30)) 0 0x25#8 511 := by
  refine ⟨by unfold TextAccepted; decide, ?_, ?_, ?_, ?_, ?_, ?_⟩
  · refine .utf8 [0x31] [0xED#8, 0xA0#8, 0x80#8] (by decide) (by decide) (by decide) ?_
    intro cp h hb
    simp only [isScalar, decide_eq_true_eq] at h
    unfold utf8Bytes at hb
    split at hb
    · simp only [List.cons_prefix_cons, List.nil_prefix, and_true] at hb
      bv_omega
    split at hb
    · simp only [List.cons_prefix_cons, List.nil_prefix, and_true] at hb
      have := congrArg BitVec.toNat hb.1
      simp only [BitVec.toNat_ofNat] at this
      omega
    split at hb
    · simp only [List.cons_prefix_cons, List.nil_prefix, and_true] at hb
      have h1 := congrArg BitVec.toNat hb.1
      have h2 := congrArg BitVec.toNat hb.2.1
      simp only [BitVec.toNat_ofNat] at h1 h2
      omega
    · simp only [List.cons_prefix_cons] at hb
      have := congrArg BitVec.toNat hb.1
      simp only [BitVec.toNat_ofNat] at this
      omega
  · exact .exhausted [0x30] 1 1 (by decide) (by decide) (by decide) (by decide)
  · exact .noSymbol [] 0 0 (by decide) (by decide) (by decide) (by decide)
  · exact .marker [] 0x32 0 0 ⟨[], by decide, by decide, by decide, by decide⟩ (by decide) (by decide)
  · exact .trailing [0x31, 0x61] 0x31 1 ⟨[0x62], by decide, by decide, by decide, by decide⟩
  · have hp : (utf8Text (List.replicate 511 0x30)).length = 511 := by decide +kernel
    have h := TextError.overflow (S := utf8Text (List.replicate 512 0x30)) (base := 0) (List.replicate 511 0x30) 0x30 511
      ⟨[], by decide +kernel, by decide +kernel, by decide +kernel, by decide⟩ (.inl rfl)
    rwa [hp] at h

/-- DeserializeErrors: a source, and the empty source. -/
theorem witness_DeserializeErrors :
    SourceIs (flying .deserialize) [0x61#8, 0x62#8] ∧ CanRun .deserialize (flying .deserialize) ∧
      SourceIs (accepted .deserialize (loaded [] 0)) [] ∧ CanRun .deserialize (accepted .deserialize (loaded [] 0)) :=
  ⟨sourceIs_flying _, canRun_flying _, ⟨rfl, by decide⟩, by decide, by decide⟩

/-- PackAndUnpack: a byte of packed bits, 43_bitstream's V-P1. -/
theorem witness_PackAndUnpack : (pack [true, true, false]).1[0]? = some 0xC0#8 := by decide

/-- PackbitsResult: three bits that fit in one byte; no room; a bad byte after good ones. -/
theorem witness_PackbitsResult :
    ∃ s u v : State, s.snap = some ([true, true, false].map (fun b => if b then 0x01#8 else 0x00#8)) ∧
      CanRun .packbits s ∧ ([true, true, false].length + 7) / 8 ≤ s.dstCap.toNat ∧
      u.snap = some ([true, true, false].map (fun b => if b then 0x01#8 else 0x00#8)) ∧ CanRun .packbits u ∧
      u.dstCap.toNat < ([true, true, false].length + 7) / 8 ∧
      SourceIs v ([0x01#8] ++ 0x02#8 :: [0x00#8]) ∧ CanRun .packbits v :=
  ⟨accepted .packbits (loaded [1#8, 1#8, 0#8] 1), accepted .packbits (loaded [1#8, 1#8, 0#8] 0),
    accepted .packbits (loaded [1#8, 2#8, 0#8] 1), rfl, ⟨by decide, by decide⟩, by decide, rfl, ⟨by decide, by decide⟩,
    by decide, ⟨rfl, by decide⟩, by decide, by decide⟩

/-- UnpackbitsResult: room for every bit, no room, more padding than bits (a source of no bytes). -/
theorem witness_UnpackbitsResult :
    CanRun .unpackbits (flying .unpackbits) ∧ (flying .unpackbits).snap = some [0x61#8, 0x62#8] ∧
      8 * 2 - (flying .unpackbits).pad.toNat ≤ (flying .unpackbits).dstCap.toNat ∧
      CanRun .unpackbits (accepted .unpackbits (loaded [0x61#8, 0x62#8] 15)) ∧ (15#32).toNat < 8 * 2 - (0#8).toNat ∧
      CanRun .unpackbits (accepted .unpackbits { loaded [] 0 with pad := 1#8 }) ∧ 8 * 0 < (1#8).toNat :=
  ⟨canRun_flying _, rfl, by decide, ⟨by decide, by decide⟩, by decide, ⟨by decide, by decide⟩, by decide⟩

/-- EncodeResult: every byte has a code and the output fits, or does not; a byte without a code. -/
theorem witness_EncodeResult :
    CanRun .encode (flying .encode) ∧ (flying .encode).snap = some [0x61#8, 0x62#8] ∧
      (∀ y ∈ [0x61#8, 0x62#8], (entry (flying .encode).ct y).isSome = true) ∧ (2 + 7) / 8 ≤ (flying .encode).dstCap.toNat ∧
      CanRun .encode (accepted .encode (withAb (loaded [0x61#8, 0x62#8] 0))) ∧ (0#32).toNat < (2 + 7) / 8 ∧
      SourceIs (accepted .encode (withAb (loaded [0x61#8, 0x7A#8] 1))) ([0x61#8] ++ 0x7A#8 :: []) ∧
      CanRun .encode (accepted .encode (withAb (loaded [0x61#8, 0x7A#8] 1))) ∧ entry abCodes 0x7A#8 = none :=
  ⟨canRun_flying _, rfl, by decide +kernel, by decide, ⟨by decide, by decide⟩, by decide, ⟨rfl, by decide⟩,
    ⟨by decide, by decide⟩, by decide +kernel⟩

/-- The leaves of the tree of "ab". -/
theorem abLeads : LeadsToLeaf abNodes 2#9 [false] 0x61#8 ∧ LeadsToLeaf abNodes 2#9 [true] 0x62#8 :=
  ⟨⟨0, 1#32, by decide, by decide⟩, ⟨1, 1#32, by decide, by decide⟩⟩

/-- DECODE of V-C2's payload, the tree of "ab" in the arena, `cap` bytes of destination. -/
def decoding (cap : Nat) : State := { accepted .decode (withAb (loaded [0x40#8] cap)) with pad := 6#8 }

/-- DecodeResult: the output fits, or does not. -/
theorem witness_DecodeResult (cap : Nat) (hcap : cap ≤ 2) :
    ArenaOk (decoding cap).nodes (decoding cap).root ∧ 2 ≤ leafCount (decoding cap).nodes ∧
      (∀ p ∈ [(0x61#8, [false]), (0x62#8, [true])], LeadsToLeaf (decoding cap).nodes (decoding cap).root p.2 p.1) ∧
      (decoding cap).snap = some (pack ([(0x61#8, [false]), (0x62#8, [true])].flatMap (fun p => p.2))).1 ∧
      (decoding cap).pad.toNat = (pack ([(0x61#8, [false]), (0x62#8, [true])].flatMap (fun p => p.2))).2 ∧
      CanRun .decode (decoding cap) := by
  refine ⟨abNodes_arenaOk, (by decide : 2 ≤ leafCount abNodes), ?_, by rfl, by rfl, ?_⟩
  · intro p hp
    simp only [List.mem_cons, List.not_mem_nil, or_false] at hp
    rcases hp with rfl | rfl
    · exact abLeads.1
    · exact abLeads.2
  · rcases cap with _ | _ | _ | cap
    · exact ⟨by decide, by decide⟩
    · exact ⟨by decide, by decide⟩
    · exact ⟨by decide, by decide⟩
    · omega

/-- The tree of V-D3. -/
def threeLeaves : List Node :=
  [.leaf 0x61#8 0#32, .leaf 0x62#8 0#32, .leaf 0x63#8 0#32, .internal 0#32 1#9 2#9, .internal 0#32 0#9 3#9]

/-- DecodeErrors: an empty arena, a wrong `PAD`, one leaf with and without a bit to read, bits that end inside. -/
theorem witness_DecodeErrors :
    (SourceIs (accepted .decode (loaded [0x80#8] 8)) [0x80#8] ∧ CanRun .decode (accepted .decode (loaded [0x80#8] 8)) ∧
      ArenaOk [] 0#9) ∧
    (SourceIs (flying .decode) [0x61#8, 0x62#8] ∧ CanRun .decode (flying .decode) ∧ 7 < (8#8).toNat) ∧
    (leafCount [.leaf 0x61#8 4#32] = 1 ∧ (7#8).toNat < 8 * [0x80#8].length ∧ (0#8).toNat = 8 * ([] : List Byte).length) ∧
    (ArenaOk threeLeaves 4#9 ∧ 2 ≤ leafCount threeLeaves ∧ follow threeLeaves 4 [true] = some 3 ∧
      threeLeaves[3]? = some (.internal 0#32 1#9 2#9) ∧ pack [true] = ([0x80#8], 7)) :=
  ⟨⟨⟨rfl, by decide⟩, ⟨by decide, by decide⟩, by decide, .inl ⟨rfl, rfl⟩⟩,
    ⟨sourceIs_flying _, canRun_flying _, by decide⟩, by decide,
    ⟨by decide, .inr ⟨.node 4 (.leaf 0 0x61#8) (.node 3 (.leaf 1 0x62#8) (.leaf 2 0x63#8)), by decide, by decide,
      by decide⟩⟩, by decide, by decide, by decide, by decide⟩

/-- WalkInvertsCodes: two leaves, and one. -/
theorem witness_WalkInvertsCodes :
    (ArenaOk abNodes 2#9 ∧ abNodes ≠ [] ∧ codes abNodes 2#9 = .ok abCodes ∧ 2 ≤ leafCount abNodes ∧
      ∀ y ∈ [0x62#8, 0x61#8], (lookupCode abCodes y).isSome = true) ∧
    (ArenaOk [.leaf 0x61#8 4#32] 0#9 ∧ leafCount [.leaf 0x61#8 4#32] = 1 ∧
      ∃ t, codes [.leaf 0x61#8 4#32] 0#9 = .ok t) :=
  ⟨⟨abNodes_arenaOk, by decide, by rfl, by decide, by decide +kernel⟩, oneLeaf_arenaOk, by decide, _, rfl⟩

/-- CompressResult, RoundTrip: a source of two distinct symbols, neither of them 0x00. -/
theorem witness_CompressResult :
    SourceIs (flying .compress) [0x61#8, 0x62#8] ∧ CanRun .compress (flying .compress) ∧
      2 ≤ [0x61#8, 0x62#8].dedup.length ∧ 0x00#8 ∉ [0x61#8, 0x62#8] :=
  ⟨sourceIs_flying _, canRun_flying _, by decide, by decide⟩

/-- EmptyIdentity, both commands. -/
theorem witness_EmptyIdentity : ∀ i ∈ [Instr.compress, .decompress],
    (accepted i (loaded [] 0)).snap = some [] ∧ CanRun i (accepted i (loaded [] 0)) := by
  intro i h
  simp only [List.mem_cons, List.not_mem_nil, or_false] at h
  rcases h with rfl | rfl <;> exact ⟨rfl, by decide, by decide⟩

/-- V-C2's container. -/
def abBox : List Byte := [0x06#8, 0x30#8, 0x31#8, 0x61#8, 0x31#8, 0x62#8, 0x00#8, 0x40#8]

/-- DecompressResult: V-C2's container, room for two bytes or for one. -/
theorem witness_DecompressResult :
    ∃ tr T, ArenaOk abNodes 2#9 ∧ 2 ≤ leafCount abNodes ∧ 0x00#8 ∉ leafSymbols abNodes ∧
      arenaTree abNodes 2#9 = some tr ∧ ser abNodes 2#9 = .ok T ∧
      (LeadsToLeaf abNodes 2#9 [false] 0x61#8 ∧ LeadsToLeaf abNodes 2#9 [true] 0x62#8) ∧
      (∀ cap ∈ [1, 2], (accepted .decompress (loaded abBox cap)).snap =
          some (container (pack [false, true]).2 T (pack [false, true]).1) ∧
        CanRun .decompress (accepted .decompress (loaded abBox cap))) := by
  refine ⟨.node 2 (.leaf 0 0x61#8) (.leaf 1 0x62#8), [0x30#8, 0x31#8, 0x61#8, 0x31#8, 0x62#8], abNodes_arenaOk,
    by decide, by decide, by decide, by rfl, abLeads, ?_⟩
  intro cap h
  simp only [List.mem_cons, List.not_mem_nil, or_false] at h
  rcases h with rfl | rfl <;> exact ⟨by rfl, by decide, by decide⟩

/-- DecompressErrors: V-X1, a container of one byte; V-X15's text; V-X6's text, of one leaf, with a payload byte; V-X14's
payload, a bit that ends at an internal node. -/
theorem witness_DecompressErrors :
    SourceIs (accepted .decompress (loaded [0x05#8] 8)) (0x05#8 :: []) ∧
      CanRun .decompress (accepted .decompress (loaded [0x05#8] 8)) ∧ 0x00#8 ∉ ([] : List Byte) ∧
      TextError [0x32#8] 1 0x23#8 1 ∧ TextAccepted [0x31#8, 0x61#8] [0x31, 0x61] 1 ∧ (0x00#8).toNat < 8 * [0x80#8].length ∧
      8 * ([] : List Byte).length < (0x06#8).toNat ∧
      (ArenaOk threeLeaves 4#9 ∧ ser threeLeaves 4#9 = .ok [0x30#8, 0x31#8, 0x61#8, 0x30#8, 0x31#8, 0x62#8, 0x31#8, 0x63#8] ∧
        follow threeLeaves 4 [true] = some 3 ∧ threeLeaves[3]? = some (.internal 0#32 1#9 2#9) ∧
        pack [true] = ([0x80#8], 7)) :=
  ⟨⟨rfl, by decide⟩, ⟨by decide, by decide⟩, by decide,
    .marker [] 0x32 0 0 ⟨[], by decide, by decide, by decide, by decide⟩ (by decide) (by decide),
    by unfold TextAccepted; decide, by decide, by decide, witness_DecodeErrors.2.2.2.1, by rfl,
    witness_DecodeErrors.2.2.2.2.2.1, witness_DecodeErrors.2.2.2.2.2.2⟩

/-- ZeroSymbolFailure: V-C8. -/
theorem witness_ZeroSymbolFailure :
    SourceIs (accepted .compress (loaded [0x00#8, 0x01#8] 64)) [0x00#8, 0x01#8] ∧
      CanRun .compress (accepted .compress (loaded [0x00#8, 0x01#8] 64)) ∧ 0x00#8 ∈ [0x00#8, 0x01#8] :=
  ⟨⟨rfl, by decide⟩, ⟨by decide, by decide⟩, by decide⟩

/-- DegenerateRoundTrip: V-C11. -/
theorem witness_DegenerateRoundTrip :
    SourceIs (accepted .compress (loaded [0x61#8, 0x61#8, 0x61#8, 0x61#8] 4)) (List.replicate (3 + 1) 0x61#8) ∧
      CanRun .compress (accepted .compress (loaded [0x61#8, 0x61#8, 0x61#8, 0x61#8] 4)) ∧ 0x61#8 ≠ (0#8 : Byte) :=
  ⟨⟨rfl, by decide⟩, ⟨by decide, by decide⟩, by decide⟩

/-- A state with a command in flight that meets every invariant, and its step. -/
theorem flying_inv : Inv (flying .count) where
  memory := by unfold MemoryOk; decide
  tree := abNodes_arenaOk
  codeTable := .inr ⟨rfl, by decide, by rfl⟩
  lifecycle := ⟨fun _ => ⟨rfl, rfl, rfl, rfl, .count, [0x61#8, 0x62#8], rfl, rfl, fun _ => by rfl⟩,
    fun h => absurd h (by decide)⟩
  counts := by unfold CountsOk; decide +kernel

/-- The StepKeeps statements and InvariantStatesNeverBreak: such a state takes a step. -/
theorem witness_StepKeeps : Inv (flying .count) ∧ ∃ t, step (flying .count) = .next t := by
  obtain ⟨t, h, -⟩ := nextIs_exists (p := fun _ => true)
    (show nextIs (step (flying .count)) _ = true by decide +kernel)
  exact ⟨flying_inv, t, h⟩

/-- ArenaShape: a tree of three leaves. -/
theorem witness_ArenaShape : ArenaOk abNodes 2#9 ∧ abNodes ≠ [] := ⟨abNodes_arenaOk, by decide⟩

end Sys2Proof.Tests
end

/-! ## The node arena as a tree (10_state R51)

A tree lies in an arena when the arena holds its nodes at their indices (`Tree.InArena`). This is `treeAt` without its
fuel; what the arena invariant means is read off the tree by induction over the tree. -/

namespace Sys2Proof.Machine

/-- The arena index of a tree's root. -/
def Tree.index : Tree → Nat
  | .leaf n _ => n
  | .node n _ _ => n

@[simp] theorem Tree.index_leaf (n : Nat) (sym : Byte) : (Tree.leaf n sym).index = n := rfl

@[simp] theorem Tree.index_node (n : Nat) (l r : Tree) : (Tree.node n l r).index = n := rfl

/-- The arena holds each node of the tree at its index, an internal node with the indices of its two children. -/
def Tree.InArena (nodes : List Node) : Tree → Prop
  | .leaf n sym => ∃ w, nodes[n]? = some (.leaf sym w)
  | .node n l r =>
    (∃ w i j, nodes[n]? = some (.internal w i j) ∧ i.toNat = l.index ∧ j.toNat = r.index) ∧
      l.InArena nodes ∧ r.InArena nodes

/-- The number of nodes on the longest path from the root. -/
def Tree.depth : Tree → Nat
  | .leaf _ _ => 1
  | .node _ l r => max l.depth r.depth + 1

/-- The links of a tree, each a node's index with a child's. -/
def Tree.edges : Tree → List (Nat × Nat)
  | .leaf _ _ => []
  | .node n l r => (n, l.index) :: (n, r.index) :: (l.edges ++ r.edges)

theorem Tree.depth_le_length_indices (t : Tree) : t.depth ≤ t.indices.length := by
  induction t with
  | leaf n sym => simp [Tree.depth, Tree.indices]
  | node n l r ihl ihr => simp only [Tree.depth, Tree.indices, List.length_cons, List.length_append]; omega

theorem Tree.index_mem_indices (t : Tree) : t.index ∈ t.indices := by
  cases t <;> simp [Tree.indices]

/-- A tree with `L` leaves has `2L - 1` nodes. -/
theorem Tree.length_indices (t : Tree) : t.indices.length + 1 = 2 * t.leafSyms.length := by
  induction t with
  | leaf n sym => rfl
  | node n l r ihl ihr =>
    simp only [Tree.indices, Tree.leafSyms, List.length_cons, List.length_append]; omega

/-- The nodes of a tree are its root and the lower ends of its links. -/
theorem Tree.indices_perm_edges (t : Tree) : t.indices.Perm (t.index :: t.edges.map Prod.snd) := by
  induction t with
  | leaf n sym => exact .refl _
  | node n l r ihl ihr =>
    simp only [Tree.indices, Tree.index_node, Tree.edges, List.map_cons, List.map_append]
    refine .cons _ ((ihl.append ihr).trans ?_)
    exact .cons _ List.perm_middle

/-! ### A tree in an arena -/

theorem Tree.InArena.append {nodes : List Node} {t : Tree} (h : t.InArena nodes) (more : List Node) :
    t.InArena (nodes ++ more) := by
  have keep : ∀ {n : Nat} {x : Node}, nodes[n]? = some x → (nodes ++ more)[n]? = some x := fun hx => by
    rw [List.getElem?_append_left (List.getElem?_eq_some_iff.1 hx).1, hx]
  induction t with
  | leaf n sym => obtain ⟨w, hw⟩ := h; exact ⟨w, keep hw⟩
  | node n l r ihl ihr =>
    obtain ⟨⟨w, i, j, hn, hi, hj⟩, hl, hr⟩ := h
    exact ⟨⟨w, i, j, keep hn, hi, hj⟩, ihl hl, ihr hr⟩

theorem Tree.InArena.lt_length {nodes : List Node} {t : Tree} (h : t.InArena nodes) :
    ∀ i ∈ t.indices, i < nodes.length := by
  induction t with
  | leaf n sym =>
    obtain ⟨w, hw⟩ := h
    simpa [Tree.indices] using (List.getElem?_eq_some_iff.1 hw).1
  | node n l r ihl ihr =>
    obtain ⟨⟨w, i, j, hn, -, -⟩, hl, hr⟩ := h
    intro k hk
    simp only [Tree.indices, List.mem_cons, List.mem_append] at hk
    rcases hk with rfl | hk | hk
    · exact (List.getElem?_eq_some_iff.1 hn).1
    · exact ihl hl k hk
    · exact ihr hr k hk

theorem Tree.InArena.treeAt_eq {nodes : List Node} {t : Tree} (h : t.InArena nodes) {fuel : Nat}
    (hf : t.depth ≤ fuel) : treeAt nodes fuel t.index = some t := by
  induction t generalizing fuel with
  | leaf n sym =>
    obtain ⟨w, hw⟩ := h
    obtain ⟨fuel, rfl⟩ : ∃ m, fuel = m + 1 := ⟨fuel - 1, by simp only [Tree.depth] at hf; omega⟩
    simp [treeAt, hw]
  | node n l r ihl ihr =>
    obtain ⟨⟨w, i, j, hn, hi, hj⟩, hl, hr⟩ := h
    simp only [Tree.depth] at hf
    obtain ⟨fuel, rfl⟩ : ∃ m, fuel = m + 1 := ⟨fuel - 1, by omega⟩
    have hlt := ihl hl (fuel := fuel) (by omega)
    have hrt := ihr hr (fuel := fuel) (by omega)
    simp [treeAt, hn, hi, hj, hlt, hrt]

theorem inArena_of_treeAt {nodes : List Node} {fuel n : Nat} {t : Tree} (h : treeAt nodes fuel n = some t) :
    t.InArena nodes ∧ t.index = n := by
  induction fuel generalizing n t with
  | zero => simp [treeAt] at h
  | succ fuel ih =>
    unfold treeAt at h
    split at h
    · simp at h
    · rename_i sym w hn
      cases h
      exact ⟨⟨w, hn⟩, rfl⟩
    · rename_i w l r hn
      split at h
      · rename_i tl tr hl hr
        cases h
        obtain ⟨hla, hli⟩ := ih hl
        obtain ⟨hra, hri⟩ := ih hr
        exact ⟨⟨⟨w, l, r, hn, hli.symm, hri.symm⟩, hla, hra⟩, rfl⟩
      · simp at h

/-! ### The arena invariant -/

/-- The tree of the arena: it starts at the root and meets each node once. -/
structure SpansArena (nodes : List Node) (root : NodeIndex) (t : Tree) : Prop where
  inArena : t.InArena nodes
  index : t.index = root.toNat
  perm : t.indices.Perm (List.range nodes.length)

theorem SpansArena.mem_indices {nodes : List Node} {root : NodeIndex} {t : Tree} (h : SpansArena nodes root t)
    {i : Nat} : i ∈ t.indices ↔ i < nodes.length := by
  rw [h.perm.mem_iff, List.mem_range]

theorem SpansArena.ne_nil {nodes : List Node} {root : NodeIndex} {t : Tree} (h : SpansArena nodes root t) :
    nodes ≠ [] := by
  have := h.mem_indices.1 t.index_mem_indices
  rintro rfl
  simp at this

theorem SpansArena.arenaTree_eq {nodes : List Node} {root : NodeIndex} {t : Tree} (h : SpansArena nodes root t) :
    arenaTree nodes root = some t := by
  have hlen := h.perm.length_eq
  rw [List.length_range] at hlen
  rw [arenaTree, ← h.index]
  exact h.inArena.treeAt_eq (hlen ▸ t.depth_le_length_indices)

theorem SpansArena.arenaOk {nodes : List Node} {root : NodeIndex} {t : Tree} (h : SpansArena nodes root t)
    (hlen : nodes.length ≤ Config.maxNodes) : ArenaOk nodes root :=
  ⟨hlen, .inr ⟨t, h.arenaTree_eq, h.perm.nodup_iff.2 List.nodup_range, by simpa using h.perm.length_eq⟩⟩

/-- A non-empty arena that meets the invariant is spanned by its tree. -/
theorem ArenaOk.exists_spansArena {nodes : List Node} {root : NodeIndex} (h : ArenaOk nodes root) (hne : nodes ≠ []) :
    ∃ t, SpansArena nodes root t := by
  obtain ⟨-, ⟨hnil, -⟩ | ⟨t, ht, hnodup, hlen⟩⟩ := h
  · exact absurd hnil hne
  · obtain ⟨hin, hidx⟩ := inArena_of_treeAt ht
    refine ⟨t, hin, hidx, ?_⟩
    refine (hnodup.subperm fun i hi => List.mem_range.2 (hin.lt_length i hi)).perm_of_length_le ?_
    simp [hlen]

/-! ### Links, paths and leaves -/

/-- A link of the tree is a link of the arena. -/
theorem Tree.InArena.hasChild_of_mem_edges {nodes : List Node} {t : Tree} (h : t.InArena nodes) {k i : Nat}
    (hki : (k, i) ∈ t.edges) : ∃ n, nodes[k]? = some n ∧ n.hasChild i = true := by
  induction t with
  | leaf n sym => simp [Tree.edges] at hki
  | node n l r ihl ihr =>
    obtain ⟨⟨w, a, b, hn, ha, hb⟩, hl, hr⟩ := h
    simp only [Tree.edges, List.mem_cons, Prod.mk.injEq, List.mem_append] at hki
    rcases hki with ⟨rfl, rfl⟩ | ⟨rfl, rfl⟩ | hki | hki
    · exact ⟨_, hn, by simp [Node.hasChild, ha]⟩
    · exact ⟨_, hn, by simp [Node.hasChild, hb]⟩
    · exact ihl hl hki
    · exact ihr hr hki

/-- A link of the arena from a node of the tree is a link of the tree. -/
theorem Tree.InArena.mem_edges_of_hasChild {nodes : List Node} {t : Tree} (h : t.InArena nodes) {k i : Nat} {n : Node}
    (hk : k ∈ t.indices) (hn : nodes[k]? = some n) (hi : n.hasChild i = true) : (k, i) ∈ t.edges := by
  induction t with
  | leaf m sym =>
    obtain ⟨w, hw⟩ := h
    obtain rfl : k = m := by simpa [Tree.indices] using hk
    rw [hw] at hn
    cases hn
    simp [Node.hasChild] at hi
  | node m l r ihl ihr =>
    obtain ⟨⟨w, a, b, hm, ha, hb⟩, hl, hr⟩ := h
    simp only [Tree.indices, List.mem_cons, List.mem_append] at hk
    simp only [Tree.edges, List.mem_cons, Prod.mk.injEq, List.mem_append]
    rcases hk with rfl | hk | hk
    · rw [hm] at hn
      cases hn
      simp only [Node.hasChild, ha, hb, Bool.or_eq_true, beq_iff_eq] at hi
      rcases hi with hi | hi
      · exact .inl ⟨rfl, hi.symm⟩
      · exact .inr (.inl ⟨rfl, hi.symm⟩)
    · exact .inr (.inr (.inl (ihl hl hk)))
    · exact .inr (.inr (.inr (ihr hr hk)))

/-- Every node of the tree is reached from its root. -/
theorem Tree.InArena.exists_follow {nodes : List Node} {t : Tree} (h : t.InArena nodes) {i : Nat}
    (hi : i ∈ t.indices) : ∃ path, follow nodes t.index path = some i := by
  induction t with
  | leaf n sym =>
    obtain rfl : i = n := by simpa [Tree.indices] using hi
    exact ⟨[], rfl⟩
  | node n l r ihl ihr =>
    obtain ⟨⟨w, a, b, hn, ha, hb⟩, hl, hr⟩ := h
    simp only [Tree.indices, List.mem_cons, List.mem_append] at hi
    rcases hi with rfl | hi | hi
    · exact ⟨[], rfl⟩
    · obtain ⟨path, hp⟩ := ihl hl hi
      exact ⟨false :: path, by simpa [follow, hn, ha] using hp⟩
    · obtain ⟨path, hp⟩ := ihr hr hi
      exact ⟨true :: path, by simpa [follow, hn, hb] using hp⟩

/-- Is the node at the index a leaf? -/
def isLeafAt (nodes : List Node) (i : Nat) : Bool := (nodes[i]?.map Node.isLeaf).getD false

theorem Tree.InArena.countP_isLeafAt {nodes : List Node} {t : Tree} (h : t.InArena nodes) :
    t.indices.countP (isLeafAt nodes) = t.leafSyms.length := by
  induction t with
  | leaf n sym =>
    obtain ⟨w, hw⟩ := h
    simp [Tree.indices, Tree.leafSyms, isLeafAt, hw, Node.isLeaf]
  | node n l r ihl ihr =>
    obtain ⟨⟨w, a, b, hn, -, -⟩, hl, hr⟩ := h
    have hinner : isLeafAt nodes n = false := by simp [isLeafAt, hn, Node.isLeaf]
    simp [Tree.indices, Tree.leafSyms, hinner, ihl hl, ihr hr]

theorem countP_isLeafAt_range (nodes : List Node) :
    (List.range nodes.length).countP (isLeafAt nodes) = leafCount nodes := by
  have hmap : nodes.map Node.isLeaf = (List.range nodes.length).map (isLeafAt nodes) := by
    apply List.ext_getElem <;> simp +contextual [isLeafAt]
  calc (List.range nodes.length).countP (isLeafAt nodes)
      = ((List.range nodes.length).map (isLeafAt nodes)).countP id := by rw [List.countP_map]; rfl
    _ = leafCount nodes := by rw [← hmap, List.countP_map]; rfl

/-- `NODE_COUNT` = 2L - 1 (10_state R51). -/
theorem SpansArena.length_eq {nodes : List Node} {root : NodeIndex} {t : Tree} (h : SpansArena nodes root t) :
    nodes.length = 2 * leafCount nodes - 1 := by
  have hleaf : leafCount nodes = t.leafSyms.length := by
    rw [← countP_isLeafAt_range, ← h.perm.countP_eq, h.inArena.countP_isLeafAt]
  have hlen := h.perm.length_eq
  rw [List.length_range] at hlen
  have := t.length_indices
  omega

/-- The lower ends of the tree's links are the nodes but the root, each once. -/
theorem SpansArena.edges_nodup {nodes : List Node} {root : NodeIndex} {t : Tree} (h : SpansArena nodes root t) :
    (root.toNat :: t.edges.map Prod.snd).Nodup := by
  rw [← h.index, ← t.indices_perm_edges.nodup_iff, h.perm.nodup_iff]
  exact List.nodup_range

theorem SpansArena.mem_edges_iff {nodes : List Node} {root : NodeIndex} {t : Tree} (h : SpansArena nodes root t)
    {k i : Nat} : (k, i) ∈ t.edges ↔ ∃ n, nodes[k]? = some n ∧ n.hasChild i = true := by
  refine ⟨h.inArena.hasChild_of_mem_edges, ?_⟩
  rintro ⟨n, hn, hi⟩
  exact h.inArena.mem_edges_of_hasChild (h.mem_indices.2 (List.getElem?_eq_some_iff.1 hn).1) hn hi

theorem SpansArena.child_lt {nodes : List Node} {root : NodeIndex} {t : Tree} (h : SpansArena nodes root t)
    {k i : Nat} {n : Node} (hn : nodes[k]? = some n) (hi : n.hasChild i = true) : i < nodes.length := by
  rw [← h.mem_indices, t.indices_perm_edges.mem_iff]
  exact List.mem_cons_of_mem _ (List.mem_map_of_mem (h.mem_edges_iff.2 ⟨n, hn, hi⟩))

/-- No node has the root as its child. -/
theorem SpansArena.root_no_child {nodes : List Node} {root : NodeIndex} {t : Tree} (h : SpansArena nodes root t)
    {k : Nat} {n : Node} (hn : nodes[k]? = some n) : n.hasChild root.toNat = false := by
  by_contra hc
  rw [Bool.not_eq_false] at hc
  exact (List.nodup_cons.1 h.edges_nodup).1 (List.mem_map_of_mem (h.mem_edges_iff.2 ⟨n, hn, hc⟩))

/-- Every node but the root is the child of exactly one node. -/
theorem SpansArena.existsUnique_parent {nodes : List Node} {root : NodeIndex} {t : Tree} (h : SpansArena nodes root t)
    {i : Nat} (hi : i < nodes.length) (hr : i ≠ root.toNat) :
    ∃! k : Nat, ∃ n : Node, nodes[k]? = some n ∧ n.hasChild i = true := by
  have hmem : i ∈ t.edges.map Prod.snd := by
    have := t.indices_perm_edges.mem_iff.1 (h.mem_indices.2 hi)
    rw [h.index] at this
    exact (List.mem_cons.1 this).resolve_left hr
  obtain ⟨⟨k, _⟩, hk, rfl⟩ := List.mem_map.1 hmem
  refine ⟨k, h.mem_edges_iff.1 hk, fun k' hk' => ?_⟩
  exact congrArg Prod.fst
    (List.inj_on_of_nodup_map (List.nodup_cons.1 h.edges_nodup).2 (h.mem_edges_iff.2 hk') hk rfl)

/-- Settles O56: the arena invariant, read off the tree that spans the arena. -/
theorem arenaShape : Obligations.ArenaShape := by
  intro nodes root hok hne
  obtain ⟨t, ht⟩ := hok.exists_spansArena hne
  refine ⟨hok.1, ?_, ?_, ?_, ?_, ht.length_eq, ?_⟩
  · rw [← ht.index]
    exact ht.mem_indices.1 t.index_mem_indices
  · intro k w l r hk
    exact ⟨ht.child_lt hk (by simp [Node.hasChild]), ht.child_lt hk (by simp [Node.hasChild])⟩
  · exact fun i hi hr => ht.existsUnique_parent hi hr
  · exact fun k n hn => ht.root_no_child hn
  · intro i hi
    rw [← ht.index]
    exact ht.inArena.exists_follow (ht.mem_indices.2 hi)

end Sys2Proof.Machine

/-! ## The trees that commands write into the arena

BUILD (40_count_build R111, R112) keeps a forest over the nodes made so far, one tree for each element of the priority
queue, until one tree spans the arena. DESERIALIZE (42_serializer R143) lays a subtree out in pre-order. -/

namespace Sys2Proof.Machine

theorem pqMin_mem (x : QueueItem) (q : List QueueItem) : pqMin x q ∈ x :: q := by
  induction q generalizing x with
  | nil => exact List.mem_singleton.2 rfl
  | cons y q ih =>
    rw [pqMin]
    split
    · have := ih x
      simp only [List.mem_cons] at this ⊢
      tauto
    · exact List.mem_cons_of_mem _ (ih y)

/-- A turn of the merge loop takes two elements from the queue and puts their parent's in. -/
theorem mergeLoop_turn (fuel : Nat) (nodes : List Node) (x y : QueueItem) (rest : List QueueItem) :
    ∃ a b q, (x :: y :: rest).Perm (a :: b :: q) ∧
      mergeLoop (fuel + 1) nodes (x :: y :: rest) =
        mergeLoop fuel
          (nodes ++
            [.internal (BitVec.ofNat 32 (a.weight + b.weight)) (BitVec.ofNat 9 a.index) (BitVec.ofNat 9 b.index)])
          (q ++ [⟨a.weight + b.weight, nodes.length⟩]) := by
  have ha : (x :: y :: rest).Perm (pqMin x (y :: rest) :: (x :: y :: rest).erase (pqMin x (y :: rest))) :=
    List.perm_cons_erase (pqMin_mem _ _)
  cases hq : (x :: y :: rest).erase (pqMin x (y :: rest)) with
  | nil =>
    rw [hq] at ha
    simpa using ha.length_eq
  | cons z zs =>
    rw [hq] at ha
    refine ⟨pqMin x (y :: rest), pqMin z zs, (z :: zs).erase (pqMin z zs), ?_, ?_⟩
    · exact ha.trans (.cons _ (List.perm_cons_erase (pqMin_mem _ _)))
    · simp only [mergeLoop, hq]

/-! ### The merge loop -/

/-- The trees `T i`, `i` an index of the queue, are in the arena and share its nodes among them; the last element of the
queue is the last node made. -/
structure Forest (nodes : List Node) (q : List QueueItem) (T : Nat → Tree) : Prop where
  inArena : ∀ x ∈ q, (T x.index).InArena nodes
  index : ∀ x ∈ q, (T x.index).index = x.index
  perm : (q.flatMap (fun x => (T x.index).indices)).Perm (List.range nodes.length)
  last : ∃ q' w, q = q' ++ [⟨w, nodes.length - 1⟩]

theorem Forest.index_lt {nodes : List Node} {q : List QueueItem} {T : Nat → Tree} (h : Forest nodes q T)
    {x : QueueItem} (hx : x ∈ q) : x.index < nodes.length := by
  rw [← h.index x hx]
  exact (h.inArena x hx).lt_length _ (Tree.index_mem_indices _)

theorem Forest.queue_ne_nil {nodes : List Node} {q : List QueueItem} {T : Nat → Tree} (h : Forest nodes q T) :
    q ≠ [] := by
  obtain ⟨q', w, rfl⟩ := h.last
  simp

/-- Two trees of the forest are merged under a new node. -/
theorem Forest.merge {nodes : List Node} {q rest : List QueueItem} {T : Nat → Tree} {a b : QueueItem}
    (h : Forest nodes q T) (hlen : nodes.length ≤ 512) (hq : q.Perm (a :: b :: rest)) (w : Nat) :
    Forest (nodes ++ [.internal (BitVec.ofNat 32 w) (BitVec.ofNat 9 a.index) (BitVec.ofNat 9 b.index)])
      (rest ++ [⟨w, nodes.length⟩])
      (Function.update T nodes.length (.node nodes.length (T a.index) (T b.index))) := by
  have ha : a ∈ q := hq.mem_iff.2 (by simp)
  have hb : b ∈ q := hq.mem_iff.2 (by simp)
  have hrest : ∀ x ∈ rest, x ∈ q := fun x hx => hq.mem_iff.2 (by simp [hx])
  have hold : ∀ x ∈ rest, Function.update T nodes.length (.node nodes.length (T a.index) (T b.index)) x.index =
      T x.index := fun x hx => Function.update_of_ne (h.index_lt (hrest x hx)).ne _ _
  have hword : ∀ x ∈ q, (BitVec.ofNat 9 x.index).toNat = (T x.index).index := fun x hx => by
    have := h.index_lt hx
    rw [h.index x hx, BitVec.toNat_ofNat, Nat.mod_eq_of_lt (by omega)]
  refine ⟨?_, ?_, ?_, rest, w, by simp⟩
  · intro x hx
    rcases List.mem_append.1 hx with hx | hx
    · rw [hold x hx]
      exact (h.inArena x (hrest x hx)).append _
    · obtain rfl := List.mem_singleton.1 hx
      rw [Function.update_self]
      exact ⟨⟨BitVec.ofNat 32 w, _, _, by simp, hword a ha, hword b hb⟩, (h.inArena a ha).append _,
        (h.inArena b hb).append _⟩
  · intro x hx
    rcases List.mem_append.1 hx with hx | hx
    · rw [hold x hx, h.index x (hrest x hx)]
    · obtain rfl := List.mem_singleton.1 hx
      rw [Function.update_self, Tree.index_node]
  · have hflat : rest.flatMap (fun x => (Function.update T nodes.length
          (.node nodes.length (T a.index) (T b.index)) x.index).indices) =
        rest.flatMap (fun x => (T x.index).indices) :=
      List.flatMap_congr fun x hx => by rw [hold x hx]
    have hperm : (rest.flatMap (fun x => (T x.index).indices) ++ ((T a.index).indices ++ (T b.index).indices)).Perm
        (List.range nodes.length) := by
      refine (List.perm_append_comm.trans ?_).trans h.perm
      simpa [List.append_assoc] using (hq.flatMap_right (fun x => (T x.index).indices)).symm
    simp only [List.flatMap_append, List.flatMap_singleton, Function.update_self, hflat, Tree.indices,
      List.length_append, List.length_singleton, List.range_succ]
    exact (List.perm_middle.trans (hperm.cons _)).trans (List.perm_append_singleton _ _).symm

/-- A forest of one tree spans the arena, the last node made its root. -/
theorem Forest.spans_of_singleton {nodes : List Node} {x : QueueItem} {T : Nat → Tree} (h : Forest nodes [x] T)
    (hlen : nodes.length ≤ 512) : SpansArena nodes (BitVec.ofNat 9 (nodes.length - 1)) (T x.index) := by
  have hx : x ∈ [x] := List.mem_singleton.2 rfl
  have hidx : x.index = nodes.length - 1 := by
    obtain ⟨q', w, hq⟩ := h.last
    have := congrArg List.getLast? hq
    rw [List.getLast?_singleton, List.getLast?_concat, Option.some_inj] at this
    rw [this]
  refine ⟨h.inArena x hx, ?_, by simpa using h.perm⟩
  rw [h.index x hx, hidx, BitVec.toNat_ofNat, Nat.mod_eq_of_lt (by omega)]

@[simp] theorem mergeLoop_singleton (fuel : Nat) (nodes : List Node) (x : QueueItem) :
    mergeLoop fuel nodes [x] = nodes := by
  cases fuel <;> rfl

theorem Forest.mergeLoop_singleton_spans {fuel : Nat} {nodes : List Node} {x : QueueItem} {T : Nat → Tree}
    (h : Forest nodes [x] T) (hlen : nodes.length + [x].length ≤ 512) :
    (∃ t, SpansArena (mergeLoop fuel nodes [x]) (BitVec.ofNat 9 ((mergeLoop fuel nodes [x]).length - 1)) t) ∧
      (mergeLoop fuel nodes [x]).length ≤ Config.maxNodes := by
  rw [List.length_singleton] at hlen
  rw [mergeLoop_singleton]
  exact ⟨⟨_, h.spans_of_singleton (by omega)⟩, by unfold Config.maxNodes; omega⟩

/-- The merge loop ends with one tree that spans the arena, the last node made its root. -/
theorem mergeLoop_spans {fuel : Nat} {nodes : List Node} {q : List QueueItem} {T : Nat → Tree} (h : Forest nodes q T)
    (hlen : nodes.length + q.length ≤ 512) (hfuel : q.length ≤ fuel + 1) :
    (∃ t, SpansArena (mergeLoop fuel nodes q) (BitVec.ofNat 9 ((mergeLoop fuel nodes q).length - 1)) t) ∧
      (mergeLoop fuel nodes q).length ≤ Config.maxNodes := by
  induction fuel generalizing nodes q T with
  | zero =>
    obtain ⟨x, rfl⟩ := List.length_eq_one_iff.1 (le_antisymm hfuel (List.length_pos_iff.2 h.queue_ne_nil))
    exact h.mergeLoop_singleton_spans hlen
  | succ fuel ih =>
    match q, h with
    | [], h => exact absurd rfl h.queue_ne_nil
    | [x], h => exact h.mergeLoop_singleton_spans hlen
    | x :: y :: rest, h =>
      obtain ⟨a, b, q, hperm, hturn⟩ := mergeLoop_turn fuel nodes x y rest
      have hq := hperm.length_eq
      simp only [List.length_cons] at hq hlen hfuel
      rw [hturn]
      refine ih (h.merge (by omega) hperm _) ?_ ?_ <;>
        simp only [List.length_append, List.length_singleton] <;> omega

/-! ### The leaves -/

theorem initialLeaves_length_le (f : FreqTable) : (initialLeaves f).length ≤ 256 :=
  symbols_length ▸ List.length_filterMap_le _ _

theorem isLeaf_of_mem_initialLeaves {f : FreqTable} {n : Node} (h : n ∈ initialLeaves f) :
    ∃ sym w, n = .leaf sym w := by
  obtain ⟨sym, -, hsym⟩ := List.mem_filterMap.1 h
  split at hsym
  · simp at hsym
  · exact ⟨sym, _, by simpa using hsym.symm⟩

/-- The tree of the leaf at the index. -/
def leafTree (leaves : List Node) (i : Nat) : Tree :=
  match leaves[i]? with
  | some (.leaf sym _) => .leaf i sym
  | _ => .leaf i 0

theorem leafTree_indices (leaves : List Node) (i : Nat) : (leafTree leaves i).indices = [i] := by
  unfold leafTree; split <;> rfl

theorem leafTree_index (leaves : List Node) (i : Nat) : (leafTree leaves i).index = i := by
  unfold leafTree; split <;> rfl

theorem leafTree_inArena {leaves : List Node} {i : Nat} {sym : Byte} {w : Word}
    (h : leaves[i]? = some (.leaf sym w)) : (leafTree leaves i).InArena leaves := by
  simp only [leafTree, h]
  exact ⟨w, h⟩

theorem initialQueue_map_index (leaves : List Node) :
    (initialQueue leaves).map QueueItem.index = List.range leaves.length := by
  rw [initialQueue, List.map_map, List.range_eq_range', ← List.zipIdx_map_snd]
  rfl

@[simp] theorem initialQueue_length (leaves : List Node) : (initialQueue leaves).length = leaves.length := by
  simp [initialQueue]

/-- The merge loop starts with the forest of the leaves. -/
theorem forest_initialQueue {leaves : List Node} (hne : leaves ≠ []) (hleaf : ∀ n ∈ leaves, ∃ sym w, n = .leaf sym w) :
    Forest leaves (initialQueue leaves) (leafTree leaves) where
  inArena x hx := by
    have hlt : x.index < leaves.length := by
      rw [← List.mem_range, ← initialQueue_map_index]
      exact List.mem_map_of_mem hx
    obtain ⟨sym, w, hw⟩ := hleaf _ (List.getElem_mem hlt)
    exact leafTree_inArena (hw ▸ List.getElem?_eq_getElem hlt)
  index x _ := leafTree_index leaves x.index
  perm := by
    simp only [leafTree_indices]
    rw [← initialQueue_map_index, List.map_eq_flatMap]
  last := by
    obtain ⟨front, n, rfl⟩ := List.eq_nil_or_concat leaves |>.resolve_left hne
    exact ⟨initialQueue front, n.weight.toNat, by simp [initialQueue, List.zipIdx_append]⟩

/-- A tree built spans its arena, which meets 10_state R51 (40_count_build R111). -/
theorem buildTree_spans {f : FreqTable} {nodes : List Node} {root : NodeIndex}
    (h : buildTree f = .ok (nodes, root)) : (∃ t, SpansArena nodes root t) ∧ nodes.length ≤ Config.maxNodes := by
  have hlen := initialLeaves_length_le f
  have hleaf := fun n => isLeaf_of_mem_initialLeaves (f := f) (n := n)
  unfold buildTree at h
  split at h
  · simp [raise] at h
  · rename_i leaf leaves hleaves
    rw [hleaves] at hlen hleaf
    simp only [Except.ok.injEq, Prod.mk.injEq] at h
    obtain ⟨rfl, rfl⟩ := h
    refine mergeLoop_spans (forest_initialQueue (List.cons_ne_nil _ _) hleaf) ?_ ?_ <;>
      rw [initialQueue_length] <;> omega

theorem buildTree_arenaOk {f : FreqTable} {tree : List Node × NodeIndex} (h : buildTree f = .ok tree) :
    ArenaOk tree.1 tree.2 ∧ tree.1 ≠ [] := by
  obtain ⟨⟨t, ht⟩, hlen⟩ := buildTree_spans h
  exact ⟨ht.arenaOk hlen, ht.ne_nil⟩

/-! ### The parser -/

/-- A parsed subtree lies in every arena that holds its nodes from index `k` on, and has their indices in pre-order
(42_serializer R143). -/
theorem parseTree_spans {stop fuel : Nat} {chars : List Utf8Char} {k : Nat} {p : Parsed}
    (h : parseTree stop fuel chars k = .ok p) (hk : k ≤ Config.maxNodes) :
    ∃ t : Tree, t.index = k ∧ t.indices = List.range' k p.nodes.length ∧ k + p.nodes.length ≤ Config.maxNodes ∧
      ∀ before after : List Node, before.length = k → t.InArena (before ++ p.nodes ++ after) := by
  induction fuel generalizing chars k p with
  | zero => simp [parseTree, raise] at h
  | succ fuel ih =>
    rcases chars with _ | ⟨c, chars⟩
    · simp [parseTree, raise] at h
    unfold parseTree at h
    split at h
    · simp [raise] at h
    split at h
    · simp [raise] at h
    have hlt : k < Config.maxNodes := by omega
    split at h
    · rcases chars with _ | ⟨sym, rest⟩
      · simp [raise] at h
      cases h
      refine ⟨.leaf k (BitVec.ofNat 8 (sym.cp % 256)), rfl, rfl, hlt, ?_⟩
      rintro before after rfl
      exact ⟨0, by simp⟩
    · simp only [Run.bind_eq_ok] at h
      obtain ⟨l, hl, r, hr, hp⟩ := h
      cases hp
      obtain ⟨tl, hli, hlr, hll, hla⟩ := ih hl hlt
      obtain ⟨tr, hri, hrr, hrl, hra⟩ := ih hr hll
      have hmax : Config.maxNodes = 511 := rfl
      refine ⟨.node k tl tr, rfl, ?_, ?_, ?_⟩
      · simp only [Tree.indices, hlr, hrr, List.length_cons, List.length_append, List.range'_succ,
          List.range'_append_1]
      · simp only [List.length_cons, List.length_append]; omega
      · intro before after hb
        have h1 := hla (before ++ [.internal 0 (BitVec.ofNat 9 (k + 1)) (BitVec.ofNat 9 (k + 1 + l.nodes.length))])
          (r.nodes ++ after) (by simp [hb])
        have h2 := hra (before ++ .internal 0 (BitVec.ofNat 9 (k + 1)) (BitVec.ofNat 9 (k + 1 + l.nodes.length)) ::
          l.nodes) after (by simp [hb]; omega)
        refine ⟨⟨0, BitVec.ofNat 9 (k + 1), BitVec.ofNat 9 (k + 1 + l.nodes.length), by simp [← hb], ?_, ?_⟩, ?_, ?_⟩
        · rw [BitVec.toNat_ofNat, Nat.mod_eq_of_lt (by omega), hli]
        · rw [BitVec.toNat_ofNat, Nat.mod_eq_of_lt (by omega), hri]
        · simpa using h1
        · simpa using h2

/-- An arena deserialized is spanned by its tree from index 0 and meets 10_state R51 (42_serializer R143). -/
theorem deser_arenaOk {b : List Byte} {base : Nat} {nodes : List Node} (h : deser b base = .ok nodes) :
    ArenaOk nodes 0 ∧ nodes ≠ [] := by
  simp only [deser, Run.bind_eq_ok] at h
  obtain ⟨chars, -, p, hp, h⟩ := h
  obtain ⟨t, hidx, hrange, hlen, hin⟩ := parseTree_spans hp (Nat.zero_le _)
  split at h
  · cases h
    have ht : SpansArena p.nodes 0 t :=
      ⟨by simpa using hin [] [] rfl, by simpa using hidx, by rw [hrange, List.range_eq_range']⟩
    exact ⟨ht.arenaOk (by omega), ht.ne_nil⟩
  · simp [raise] at h

end Sys2Proof.Machine

/-! ## What the host's moves and the steps change

Said once: what a host move that answers a next state did (`hostMove_next_cases`), and what a step that answers one did
(`step_next_cases`). -/

namespace Sys2Proof.Machine

theorem Csr.eq_offset_of_ofOffset {offset : CsrOffset} {c : Csr} (h : Csr.ofOffset offset = some c) :
    offset = c.offset := by
  rw [Csr.ofOffset] at h
  have hfound := List.find?_some h
  exact (beq_iff_eq.1 hfound).symm

/-- A CSR write to any offset is a write to a named register or has no effect (10_state R21). -/
theorem State.csrWriteAt_cases (s : State) (offset : CsrOffset) (v : Word) :
    s.csrWriteAt offset v = s ∨ ∃ c, offset = c.offset ∧ s.csrWriteAt offset v = s.csrWrite c v := by
  unfold State.csrWriteAt
  cases h : Csr.ofOffset offset with
  | none => exact .inl rfl
  | some c => exact .inr ⟨c, Csr.eq_offset_of_ofOffset h, rfl⟩

/-- `op` is a host write of `v` to the register `c`: `csrw c, v` or `csrw c, [src]` (30_encoding R100). -/
def WritesCsr (op : HostOp) (c : Csr) (v : Word) : Prop :=
  op = .csrWrite .word c.offset v ∨ ∃ src, op = .csrWriteFrom c src

theorem hostPoll_eq (s : State) (c : Csr) (mask value : Word) :
    ∃ prog log n, hostPoll s c mask value = { s with program := prog, readLog := log, draws := n } := by
  unfold hostPoll
  simp only
  rw [State.csrRead_eq]
  split <;> exact ⟨_, _, _, rfl⟩

/-- What a host move that answers a next state did: it changed the model's own fields only, it wrote a register, it
wrote a byte of memory outside the active regions, or it was the reset input. -/
theorem hostMove_next_cases {op : HostOp} {s t : State} (h : hostMove op s = .next t) :
    (∃ prog log n, t = { s with program := prog, readLog := log, draws := n }) ∨
    (∃ c v, WritesCsr op c v ∧ t = s.csrWrite c v) ∨
    (∃ a b, op = .memWrite a b ∧ s.inActiveSrc a.toNat = false ∧ t = { s with mem := Memory.write s.mem a.toNat b }) ∨
    (op = .hardReset ∧ t = s.coreReset) := by
  have same : ∃ prog log n, s = { s with program := prog, readLog := log, draws := n } := ⟨_, _, _, rfl⟩
  cases op with
  | csrRead width offset =>
    simp only [hostMove, hostCsrRead] at h
    split at h <;> cases h
    exact .inl ⟨_, _, _, s.csrRead_eq offset⟩
  | csrWrite width offset v =>
    simp only [hostMove, hostCsrWrite] at h
    split at h <;> cases h
    rename_i hok
    obtain rfl : width = .word := by simpa using (Bool.and_eq_true_iff.1 hok).1
    rcases s.csrWriteAt_cases offset v with he | ⟨c, rfl, he⟩
    · exact .inl (he.symm ▸ same)
    · exact .inr (.inl ⟨c, v, .inl rfl, he⟩)
  | csrWriteFrom dst src =>
    simp only [hostMove, hostWriteFrom] at h
    split at h <;> cases h
    exact .inr (.inl ⟨dst, _, .inr ⟨src, rfl⟩, s.csrWriteAt_offset dst _⟩)
  | poll c mask value =>
    cases h
    exact .inl (hostPoll_eq s c mask value)
  | branch c mask value body =>
    simp only [hostMove, hostBranch] at h
    split at h
    · cases h
    · split at h <;> cases h
      · exact .inl same
      · exact .inl ⟨_, _, _, rfl⟩
  | memRead a =>
    simp only [hostMove, hostMemRead] at h
    split at h
    · cases h
    · split at h <;> cases h
      exact .inl ⟨_, _, _, rfl⟩
  | memWrite a b =>
    simp only [hostMove, hostMemWrite] at h
    split at h
    · cases h
    · split at h <;> cases h
      rename_i hact
      simp only [Bool.or_eq_true, not_or, Bool.not_eq_true] at hact
      exact .inr (.inr (.inl ⟨a, b, rfl, hact.1, rfl⟩))
  | hardReset => cases h; exact .inr (.inr (.inr ⟨rfl, rfl⟩))

/-- The stops of a host move: `HAZARD`, a CSR access without a meaning, a value never read. -/
theorem hostMove_stops (op : HostOp) (s : State) :
    (∃ t, hostMove op s = .next t) ∨ (∃ a, hostMove op s = .fault (.hazard a)) ∨
      hostMove op s = .refused .csrAccess ∨ hostMove op s = .refused .valueNeverRead := by
  cases op with
  | csrRead width offset => simp only [hostMove, hostCsrRead]; split <;> simp
  | csrWrite width offset v => simp only [hostMove, hostCsrWrite]; split <;> simp
  | csrWriteFrom dst src => simp only [hostMove, hostWriteFrom]; split <;> simp
  | poll c mask value => simp [hostMove]
  | branch c mask value body =>
    simp only [hostMove, hostBranch]
    split
    · simp
    · split <;> simp
  | memRead a =>
    simp only [hostMove, hostMemRead]
    split
    · simp
    · split <;> simp
  | memWrite a b =>
    simp only [hostMove, hostMemWrite]
    split
    · simp
    · split <;> simp
  | hardReset => simp [hostMove]

/-- The state with the next agent's turn taken: only the agenda and the host's program can differ. -/
def TurnTaken (s s0 : State) : Prop := ∃ ag prog, s0 = { s with agenda := ag, program := prog }

/-- A step, the turn taken: nothing more, a host move, or the completion of the command in flight. -/
theorem step_eq_cases (s : State) :
    ∃ s0, TurnTaken s s0 ∧
      (step s = .next s0 ∨ (∃ op, step s = hostMove op s0) ∨
        (s0.busy = true ∧ s0.inFlight = none ∧ step s = .refused .noCommandInFlight) ∨
        (∃ i, s0.inFlight = some i ∧ step s = exec i s0)) := by
  have host : ∀ s1 : State, TurnTaken s s1 → step s = hostStep s1 → ∃ s0, TurnTaken s s0 ∧
      (step s = .next s0 ∨ ∃ op, step s = hostMove op s0) := by
    rintro _ ⟨ag, prog, rfl⟩ hs
    rcases hostStep_cases { s with agenda := ag, program := prog } with ⟨-, he⟩ | ⟨op, rest, -, he⟩
    · exact ⟨_, ⟨ag, prog, rfl⟩, .inl (hs.trans he)⟩
    · exact ⟨_, ⟨ag, rest, rfl⟩, .inr ⟨op, hs.trans he⟩⟩
  have core : ∀ s1 : State, step s = coreStep s1 → step s = .next s1 ∨
      (s1.busy = true ∧ s1.inFlight = none ∧ step s = .refused .noCommandInFlight) ∨
      (∃ i, s1.inFlight = some i ∧ step s = exec i s1) := by
    intro s1 hs
    rcases coreStep_cases s1 with ⟨-, he⟩ | ⟨hb, hn, he⟩ | ⟨-, i, hi, he⟩
    · exact .inl (hs.trans he)
    · exact .inr (.inl ⟨hb, hn, hs.trans he⟩)
    · exact .inr (.inr ⟨i, hi, hs.trans he⟩)
  rcases step_cases s with ⟨rest, -, hs⟩ | ⟨rest, -, hs⟩ | ⟨-, -, hs⟩ | ⟨-, -, hs⟩
  · obtain ⟨s0, h0, hc⟩ := host _ ⟨rest, s.program, rfl⟩ hs
    exact ⟨s0, h0, by tauto⟩
  · have := core _ hs
    exact ⟨_, ⟨rest, s.program, rfl⟩, by tauto⟩
  · have := core _ hs
    exact ⟨_, ⟨s.agenda, s.program, rfl⟩, by tauto⟩
  · obtain ⟨s0, h0, hc⟩ := host _ ⟨s.agenda, s.program, rfl⟩ hs
    exact ⟨s0, h0, by tauto⟩

/-- What a step that answers a next state did: nothing more than take the turn, a host move, or a completion. -/
theorem step_next_cases {s t : State} (h : step s = .next t) :
    ∃ s0, TurnTaken s s0 ∧
      (t = s0 ∨ (∃ op, hostMove op s0 = .next t) ∨ (∃ i, s0.inFlight = some i ∧ exec i s0 = .next t)) := by
  obtain ⟨s0, h0, he | ⟨op, he⟩ | ⟨-, -, he⟩ | ⟨i, hi, he⟩⟩ := step_eq_cases s <;> rw [he] at h
  · cases h; exact ⟨_, h0, .inl rfl⟩
  · exact ⟨s0, h0, .inr (.inl ⟨op, h⟩)⟩
  · cases h
  · exact ⟨s0, h0, .inr (.inr ⟨i, hi, h⟩)⟩

/-! ### The frame of a host move (10_state R25) -/

/-- A write to `c` changed configuration registers, selectors, `PAD`, `IE` and `DONE` at most; what a command in flight
relies on is locked while `BUSY` = 1 (10_state R46). -/
structure WritesSettings (c : Csr) (s t : State) : Prop where
  eq : t = { s with
    ie := t.ie
    done := t.done
    srcAddr := t.srcAddr
    srcLen := t.srcLen
    dstAddr := t.dstAddr
    dstCap := t.dstCap
    pad := t.pad
    freqSel := t.freqSel
    nodeSel := t.nodeSel
    codeSel := t.codeSel }
  ie : c ≠ .ctrl → t.ie = s.ie
  pad : c ≠ .pad → t.pad = s.pad
  locked : s.busy = true → t.done = s.done ∧ t.srcAddr = s.srcAddr ∧ t.srcLen = s.srcLen

/-- The three kinds of CSR writes: a reset, a `CMD` write, a write of settings. -/
theorem State.csrWrite_kinds (s : State) (c : Csr) (v : Word) :
    (c = .ctrl ∧ s.csrWrite c v = s.coreReset) ∨ (c = .cmd ∧ s.csrWrite c v = s.accept v) ∨
      WritesSettings c s (s.csrWrite c v) := by
  rcases s.csrWrite_cases c v with he | hreset | ⟨hc, b, he⟩ | haccept | ⟨-, hb, he⟩ | ⟨-, hb, he⟩ | ⟨-, hb, he⟩ |
    ⟨-, hb, he⟩ | ⟨-, hb, he⟩ | ⟨hc, hb, p, he⟩ | ⟨-, x, he⟩ | ⟨-, x, he⟩ | ⟨-, x, he⟩
  case inr.inl => exact .inl hreset
  case inr.inr.inr.inl => exact .inr (.inl haccept)
  all_goals
    rw [he]
    refine .inr (.inr ⟨rfl, ?_, ?_, ?_⟩) <;> simp_all

/-- What only the core, a `CMD` write, a `CTRL` write and reset change is unchanged. -/
structure SameResults (s t : State) : Prop where
  busy : t.busy = s.busy
  errCode : t.errCode = s.errCode
  errPos : t.errPos = s.errPos
  outLen : t.outLen = s.outLen
  lastOp : t.lastOp = s.lastOp
  ie : t.ie = s.ie
  freq : t.freq = s.freq
  tree : SameTree s t
  codeTable : SameCodeTable s t
  curOp : t.curOp = s.curOp
  snap : t.snap = s.snap
  platform : t.platform = s.platform
  agenda : t.agenda = s.agenda

theorem WritesSettings.sameResults {c : Csr} {s t : State} (h : WritesSettings c s t) (hc : c ≠ .ctrl) :
    SameResults s t where
  busy := by rw [h.eq]
  errCode := by rw [h.eq]
  errPos := by rw [h.eq]
  outLen := by rw [h.eq]
  lastOp := by rw [h.eq]
  ie := h.ie hc
  freq := by rw [h.eq]
  tree := by rw [h.eq]; exact ⟨rfl, rfl⟩
  codeTable := by rw [h.eq]; exact ⟨rfl, rfl⟩
  curOp := by rw [h.eq]
  snap := by rw [h.eq]
  platform := by rw [h.eq]
  agenda := by rw [h.eq]

theorem WritesSettings.mem {c : Csr} {s t : State} (h : WritesSettings c s t) : t.mem = s.mem := by rw [h.eq]

theorem sameResults_of_ownFields (s : State) (m : Memory) (prog : HostProgram) (log : List ReadEvent) (n : Nat) :
    SameResults s { s with mem := m, program := prog, readLog := log, draws := n } :=
  ⟨rfl, rfl, rfl, rfl, rfl, rfl, rfl, ⟨rfl, rfl⟩, ⟨rfl, rfl⟩, rfl, rfl, rfl, rfl⟩

/-- Settles O6: by the kinds of host moves and of CSR writes. -/
theorem hostMovesLeaveResultsAlone : Obligations.HostMovesLeaveResultsAlone := by
  intro s t op h hreset hcmd hctrl hcmdFrom hctrlFrom
  suffices hs : SameResults s t ∧
      ((∀ d, op ≠ .csrWrite .word Csr.pad.offset d) → (∀ c, op ≠ .csrWriteFrom .pad c) → t.pad = s.pad) ∧
      ((∀ a b, op ≠ .memWrite a b) → t.mem = s.mem) ∧
      (∀ a b, op = .memWrite a b → ∀ x, x ≠ a.toNat → Memory.read t.mem x = Memory.read s.mem x) by
    obtain ⟨⟨h1, h2, h3, h4, h5, h6, h7, h8, h9, h10, h11, h12, h13⟩, hrest⟩ := hs
    exact ⟨h1, h2, h3, h4, h5, h6, h7, h8, h9, h10, h11, h12, h13, hrest⟩
  rcases hostMove_next_cases h with ⟨prog, log, n, rfl⟩ | ⟨c, v, hop, rfl⟩ | ⟨a, b, rfl, -, rfl⟩ | ⟨hop, -⟩
  · exact ⟨sameResults_of_ownFields s s.mem prog log n, fun _ _ => rfl, fun _ => rfl, fun _ _ _ _ _ => rfl⟩
  · have hnot : c ≠ .cmd ∧ c ≠ .ctrl := by
      constructor <;> rintro rfl <;> rcases hop with hop | ⟨src, hop⟩
      · exact hcmd v hop
      · exact hcmdFrom src hop
      · exact hctrl v hop
      · exact hctrlFrom src hop
    rcases s.csrWrite_kinds c v with ⟨hc, -⟩ | ⟨hc, -⟩ | hset
    · exact absurd hc hnot.2
    · exact absurd hc hnot.1
    · refine ⟨hset.sameResults hnot.2, fun hpad hpadFrom => hset.pad ?_, fun _ => hset.mem, fun _ _ _ _ _ => by
        rw [hset.mem]⟩
      rintro rfl
      rcases hop with hop | ⟨src, hop⟩
      · exact hpad v hop
      · exact hpadFrom src hop
  · refine ⟨sameResults_of_ownFields s _ s.program s.readLog s.draws, fun _ _ => rfl,
      fun hmem => absurd rfl (hmem a b), ?_⟩
    intro a' b' hop x hx
    cases hop
    exact Memory.read_write_of_ne s.mem _ _ b hx
  · exact absurd hop hreset

end Sys2Proof.Machine

/-! ## The invariants of every step (10_state R51 to R54)

One lemma, `step_tables`, says what a step can do to the tree and the code table; the two invariants follow. -/

namespace Sys2Proof.Machine

/-! ### The tree and the code table -/

/-- The tree is as before or meets its invariant; the code table is as before, over the same tree, or meets its own. -/
def TablesStep (s t : State) : Prop :=
  (SameTree s t ∨ TreeOk t) ∧ (SameTree s t ∧ SameCodeTable s t ∨ CodeTableOk t)

theorem TablesStep.of_same {s t : State} (htree : SameTree s t) (hct : SameCodeTable s t) : TablesStep s t :=
  ⟨.inl htree, .inl ⟨htree, hct⟩⟩

theorem TablesStep.of_cleared {s t : State} (htree : SameTree s t ∨ TreeCleared t) (hct : CodeTableCleared t) :
    TablesStep s t := by
  refine ⟨htree.imp_right ?_, .inr (.inl hct.symm)⟩
  rintro ⟨hnodes, hroot⟩
  exact ⟨by simp [hnodes], .inl ⟨hnodes, hroot⟩⟩

theorem TablesStep.treeOk {s t : State} (h : TablesStep s t) (hs : TreeOk s) : TreeOk t := by
  rcases h.1 with ⟨hn, hr⟩ | ht
  · unfold TreeOk; rwa [hn, hr]
  · exact ht

theorem TablesStep.codeTableOk {s t : State} (h : TablesStep s t) (hs : CodeTableOk s) : CodeTableOk t := by
  rcases h.2 with ⟨⟨hn, hr⟩, hct, hv⟩ | ht
  · unfold CodeTableOk; rwa [hn, hr, hct, hv]
  · exact ht

/-- The tables depend on nothing else of the two states. -/
theorem TablesStep.congr {s s' t t' : State} (h : TablesStep s t) (hs : SameTree s' s ∧ SameCodeTable s' s)
    (ht : SameTree t t' ∧ SameCodeTable t t') : TablesStep s' t' := by
  obtain ⟨⟨hn, hr⟩, hc, hv⟩ := hs
  obtain ⟨⟨hn', hr'⟩, hc', hv'⟩ := ht
  unfold TablesStep SameTree SameCodeTable TreeOk CodeTableOk at *
  rwa [hn', hr', hc', hv', ← hn, ← hr, ← hc, ← hv]

theorem codeTableCleared_of_eq {t : State} (hct : t.ct = Vector.replicate 256 none) (hv : t.ctValid = false) :
    CodeTableCleared t :=
  ⟨fun sym => by rw [hct, entry_replicate], hv⟩

theorem TablesStep.of_newTree {s t : State} (htree : ArenaOk t.nodes t.root) (hct : CodeTableCleared t) :
    TablesStep s t :=
  ⟨.inr htree, .inr (.inl hct.symm)⟩

/-- What the pseudocode of a command does to the tables. -/
theorem bodyOf_tables {i : Instr} {s s' : State} {S out : List Byte} (h : bodyOf i s S = .ok (s', out)) :
    TablesStep s s' := by
  have quiet (htree : (cmdInfo i).writesTree = false) (hct : (cmdInfo i).writesCt = false) : TablesStep s s' :=
    .of_same ((bodyOf_ok h).tree htree) ((bodyOf_ok h).ct hct)
  cases i
  case count | serialize | encode | decode | packbits | unpackbits => exact quiet rfl rfl
  case compress =>
    rw [bodyOf, compressBody, Run.bind_eq_ok] at h
    obtain ⟨⟨u, o⟩, hrun, hout⟩ := h
    obtain ⟨rfl, -, -⟩ := boundedOutput_ok hout
    unfold compressRun at hrun
    split at hrun
    · cases hrun
      exact .of_cleared (.inr ⟨rfl, rfl⟩) (codeTableCleared_of_eq rfl rfl)
    · simp only [compressData, Run.bind_eq_ok] at hrun
      obtain ⟨tree, htree, ct, hct, T, -, hend⟩ := hrun
      cases hend
      obtain ⟨hok, hne⟩ := buildTree_arenaOk htree
      exact ⟨.inr hok, .inr (.inr ⟨rfl, hne, hct⟩)⟩
  case decompress =>
    rw [bodyOf, decompressBody, Run.bind_eq_ok] at h
    obtain ⟨⟨u, o⟩, hrun, hout⟩ := h
    obtain ⟨rfl, -, -⟩ := boundedOutput_ok hout
    cases S with
    | nil =>
      cases hrun
      exact .of_cleared (.inr ⟨rfl, rfl⟩) (codeTableCleared_of_eq rfl rfl)
    | cons p rest =>
      simp only [decompressRun, decompressData] at hrun
      split at hrun
      · simp [raise] at hrun
      · simp only [Run.bind_eq_ok] at hrun
        obtain ⟨nodes, hnodes, bits, -, o, -, hend⟩ := hrun
        cases hend
        exact .of_newTree (deser_arenaOk hnodes).1 (codeTableCleared_of_eq rfl rfl)
  case build =>
    simp only [bodyOf, buildBody, Run.bind_eq_ok] at h
    obtain ⟨tree, htree, hend⟩ := h
    cases hend
    exact .of_newTree (buildTree_arenaOk htree).1 (codeTableCleared_of_eq rfl rfl)
  case codegen =>
    simp only [bodyOf, codegenBody] at h
    split at h
    · simp [raise] at h
    · rename_i hne
      rw [Run.bind_eq_ok] at h
      obtain ⟨ct, hct, hend⟩ := h
      cases hend
      exact ⟨.inl ⟨rfl, rfl⟩, .inr (.inr ⟨rfl, hne, hct⟩)⟩
  case deserialize =>
    simp only [bodyOf, deserializeBody, Run.bind_eq_ok] at h
    obtain ⟨nodes, hnodes, hend⟩ := h
    cases hend
    exact .of_newTree (deser_arenaOk hnodes).1 (codeTableCleared_of_eq rfl rfl)

/-- A command that writes the tree writes the code table (30_encoding R93). -/
theorem cmdInfo_writesCt_of_writesTree {i : Instr} (h : (cmdInfo i).writesTree = true) :
    (cmdInfo i).writesCt = true := by
  revert h
  cases i <;> decide

/-- An error clears the tables of the write set and no other (60_exceptions R224). -/
theorem State.completeError_tables (s : State) (i : Instr) (code : ErrorCode) (pos : Nat) :
    TablesStep s (s.completeError (cmdInfo i) code pos) := by
  have htree := @cmdInfo_writesCt_of_writesTree i
  cases hct : (cmdInfo i).writesCt with
  | false =>
    have htree : (cmdInfo i).writesTree = false := by simpa [hct] using htree
    exact .of_same (by simp [SameTree, State.completeError, htree]) (by simp [SameCodeTable, State.completeError, hct])
  | true =>
    refine .of_cleared ?_ (by simp [CodeTableCleared, State.completeError, hct])
    cases htree : (cmdInfo i).writesTree with
    | false => exact .inl (by simp [SameTree, State.completeError, htree])
    | true => exact .inr (by simp [TreeCleared, State.completeError, htree])

theorem exec_tables {i : Instr} {s t : State} (h : exec i s = .next t) : TablesStep s t := by
  rcases exec_next_cases h with ⟨code, -, rfl⟩ | ⟨-, -, code, pos, -, -, rfl⟩ | ⟨-, -, s', out, hb, -, rfl⟩
  · exact .of_same ⟨rfl, rfl⟩ ⟨rfl, rfl⟩
  · exact s.completeError_tables i code pos
  · exact (bodyOf_tables hb).congr ⟨⟨rfl, rfl⟩, rfl, rfl⟩ ⟨⟨rfl, rfl⟩, rfl, rfl⟩

theorem State.clearCore_tables (s s' : State) : TablesStep s s'.clearCore :=
  .of_cleared (.inr ⟨rfl, rfl⟩) (codeTableCleared_of_eq rfl rfl)

theorem State.coreReset_tables (s : State) : TablesStep s s.coreReset := by
  rcases s.coreReset_cases with ⟨-, he⟩ | ⟨i, -, he⟩ <;> rw [he] <;> exact s.clearCore_tables _

theorem State.accept_tables (s : State) (v : Word) : TablesStep s (s.accept v) := by
  rcases s.accept_cases v with ⟨-, he⟩ | ⟨-, -, he⟩ | ⟨-, -, he⟩ <;> rw [he] <;>
    exact .of_same ⟨rfl, rfl⟩ ⟨rfl, rfl⟩

theorem hostMove_tables {op : HostOp} {s t : State} (h : hostMove op s = .next t) : TablesStep s t := by
  rcases hostMove_next_cases h with ⟨prog, log, n, rfl⟩ | ⟨c, v, -, rfl⟩ | ⟨a, b, -, -, rfl⟩ | ⟨-, rfl⟩
  · exact .of_same ⟨rfl, rfl⟩ ⟨rfl, rfl⟩
  · rcases s.csrWrite_kinds c v with ⟨-, he⟩ | ⟨-, he⟩ | hset
    · rw [he]; exact s.coreReset_tables
    · rw [he]; exact s.accept_tables v
    · rw [hset.eq]; exact .of_same ⟨rfl, rfl⟩ ⟨rfl, rfl⟩
  · exact .of_same ⟨rfl, rfl⟩ ⟨rfl, rfl⟩
  · exact s.coreReset_tables

/-- What a step does to the tree and the code table. -/
theorem step_tables {s t : State} (h : step s = .next t) : TablesStep s t := by
  obtain ⟨s0, ⟨ag, prog, rfl⟩, rfl | ⟨op, hop⟩ | ⟨i, -, hi⟩⟩ := step_next_cases h
  · exact .of_same ⟨rfl, rfl⟩ ⟨rfl, rfl⟩
  · exact (hostMove_tables hop).congr ⟨⟨rfl, rfl⟩, rfl, rfl⟩ ⟨⟨rfl, rfl⟩, rfl, rfl⟩
  · exact (exec_tables hi).congr ⟨⟨rfl, rfl⟩, rfl, rfl⟩ ⟨⟨rfl, rfl⟩, rfl, rfl⟩

/-- Settles O55: BUILD, DESERIALIZE and the sequencers write trees that span their arenas, every other step keeps or
clears the tree. -/
theorem stepKeepsTheArena : Obligations.StepKeepsTheArena :=
  fun _ _ hs h => (step_tables h).treeOk hs

/-- Settles O57: a step that writes the tree clears the code table or writes the codes of the new tree. -/
theorem stepKeepsTheCodeTable : Obligations.StepKeepsTheCodeTable :=
  fun _ _ hs h => (step_tables h).codeTableOk hs

/-! ### The lifecycle -/

theorem lifecycleOk_of_idle {s : State} (hb : s.busy = false) (hop : s.curOp = none) (hsnap : s.snap = none) :
    LifecycleOk s :=
  ⟨fun h => by simp [hb] at h, fun _ => ⟨hop, hsnap⟩⟩

/-- The lifecycle is kept where the record, the command held and the source bytes of one that reads them are. -/
theorem LifecycleOk.of_same {s t : State} (h : LifecycleOk s) (hbusy : t.busy = s.busy) (hcode : t.errCode = s.errCode)
    (hpos : t.errPos = s.errPos) (hout : t.outLen = s.outLen) (hop : t.curOp = s.curOp) (hsnap : t.snap = s.snap)
    (hdone : s.busy = true → t.done = s.done)
    (hsrc : ∀ i, s.inFlight = some i → (cmdInfo i).readsSrc = true → t.source = s.source) : LifecycleOk t := by
  refine ⟨fun hb => ?_, fun hb => ?_⟩
  · rw [hbusy] at hb
    obtain ⟨h1, h2, h3, h4, i, S, hi, hS, hread⟩ := h.1 hb
    refine ⟨(hdone hb).trans h1, hcode.trans h2, hpos.trans h3, hout.trans h4, i, S, ?_, hsnap.trans hS, fun hr => ?_⟩
    · unfold State.inFlight at hi ⊢
      rwa [hbusy, hop]
    · rw [hread hr, hsrc i hi hr]
  · rw [hbusy] at hb
    rw [hop, hsnap]
    exact h.2 hb

theorem State.coreReset_lifecycleOk (s : State) : LifecycleOk s.coreReset := by
  rcases s.coreReset_cases with ⟨-, he⟩ | ⟨i, -, he⟩ <;> rw [he] <;> exact lifecycleOk_of_idle rfl rfl rfl

/-- A `CMD` write starts a command over the source region as it stands, or completes with `BAD_CMD`
(30_encoding R104). -/
theorem State.accept_lifecycleOk {s : State} (h : LifecycleOk s) (v : Word) : LifecycleOk (s.accept v) := by
  rcases s.accept_cases v with ⟨-, he⟩ | ⟨hb, -, he⟩ | ⟨-, ⟨i, hi⟩, he⟩ <;> rw [he]
  · exact h
  · obtain ⟨hop, hsnap⟩ := h.2 hb
    exact lifecycleOk_of_idle hb hop hsnap
  · have hop : decodeOp (opField v) = .ok i := hi
    refine ⟨fun _ => ⟨rfl, rfl, rfl, rfl, i, s.source, ?_, rfl, fun _ => rfl⟩, fun hb => by simp at hb⟩
    simp [State.inFlight, hop, Except.toOption]

/-- A host write outside the active source region leaves the source bytes as they are (70_reset R265). -/
theorem State.source_memWrite {s : State} {i : Instr} {a : Nat} (b : Byte) (hi : s.inFlight = some i)
    (hr : (cmdInfo i).readsSrc = true) (ha : s.inActiveSrc a = false) :
    State.source { s with mem := Memory.write s.mem a b } = s.source := by
  have hout : s.srcRegion.contains a = false := by simpa [State.inActiveSrc, hi, hr] using ha
  have hread : ∀ x, s.srcAddr.toNat ≤ x →
      x < s.srcAddr.toNat + min s.srcLen.toNat (Config.addressSpace - s.srcAddr.toNat) →
      Memory.read (Memory.write s.mem a b) x = Memory.read s.mem x := by
    intro x hx hlt
    refine Memory.read_write_of_ne s.mem a x b ?_
    rintro rfl
    have hin : s.srcRegion.contains x = true := (Region.contains_iff _ _).2 (by simp only [State.srcRegion]; omega)
    rw [hin] at hout
    cases hout
  exact Memory.readRange_congr hread

theorem hostMove_lifecycleOk {op : HostOp} {s t : State} (hs : LifecycleOk s) (h : hostMove op s = .next t) :
    LifecycleOk t := by
  rcases hostMove_next_cases h with ⟨prog, log, n, rfl⟩ | ⟨c, v, -, rfl⟩ | ⟨a, b, -, ha, rfl⟩ | ⟨-, rfl⟩
  · exact hs.of_same rfl rfl rfl rfl rfl rfl (fun _ => rfl) fun _ _ _ => rfl
  · rcases s.csrWrite_kinds c v with ⟨-, he⟩ | ⟨-, he⟩ | hset
    · rw [he]; exact s.coreReset_lifecycleOk
    · rw [he]; exact State.accept_lifecycleOk hs v
    · have heq := hset.eq
      refine hs.of_same (by rw [heq]) (by rw [heq]) (by rw [heq]) (by rw [heq]) (by rw [heq]) (by rw [heq])
        (fun hb => (hset.locked hb).1) fun i hi _ => ?_
      obtain ⟨-, haddr, hlen⟩ := hset.locked (State.inFlight_eq_some hi).1
      rw [State.source, State.source, hset.mem, haddr, hlen]
  · exact hs.of_same rfl rfl rfl rfl rfl rfl (fun _ => rfl) fun i hi hr => State.source_memWrite b hi hr ha
  · exact s.coreReset_lifecycleOk

theorem LifecycleOk.turnTaken {s s0 : State} (h : LifecycleOk s) (h0 : TurnTaken s s0) : LifecycleOk s0 := by
  obtain ⟨ag, prog, rfl⟩ := h0
  exact h.of_same rfl rfl rfl rfl rfl rfl (fun _ => rfl) fun _ _ _ => rfl

/-- Settles O58: a completion empties the held command, a host move keeps the source of one in flight. -/
theorem stepKeepsTheLifecycle : Obligations.StepKeepsTheLifecycle := by
  intro s t hs h
  obtain ⟨s0, h0, rfl | ⟨op, hop⟩ | ⟨i, -, hi⟩⟩ := step_next_cases h
  · exact hs.turnTaken h0
  · exact hostMove_lifecycleOk (hs.turnTaken h0) hop
  · obtain ⟨hb, -, hcur, hsnap⟩ := exec_next_done hi
    exact lifecycleOk_of_idle hb hcur hsnap

/-! ### Stops of unreachable states -/

/-- The piece of pseudocode does not end at a broken arena. -/
def Unbroken {α : Type} (x : Run α) : Prop := x ≠ .error .brokenArena

theorem Unbroken.ok {α : Type} (a : α) : Unbroken (.ok a) := fun h => by cases h

theorem Unbroken.raise {α : Type} (code : ErrorCode) (pos : Nat) : Unbroken (raise code pos : Run α) :=
  fun h => by cases h

theorem Unbroken.bind {α β : Type} {x : Run α} {f : α → Run β} (hx : Unbroken x)
    (hf : ∀ a, x = .ok a → Unbroken (f a)) : Unbroken (x >>= f) := fun h => by
  rcases Run.bind_eq_error.1 h with h | ⟨a, ha, h⟩
  · exact hx h
  · exact hf a ha h

theorem Unbroken.of_error {α : Type} {x : Run α} (h : ∀ e, x = .error e → e ≠ .brokenArena) : Unbroken x :=
  fun hx => h _ hx rfl

theorem codes_unbroken {nodes : List Node} {root : NodeIndex} (hok : ArenaOk nodes root) (hne : nodes ≠ []) :
    Unbroken (codes nodes root) := by
  obtain ⟨t, ht⟩ := hok.exists_spansArena hne
  simp only [codes, ht.arenaTree_eq]
  split
  · exact .raise _ _
  · exact .ok _

theorem ser_unbroken {nodes : List Node} {root : NodeIndex} (hok : ArenaOk nodes root) :
    Unbroken (ser nodes root) := by
  unfold ser
  split
  · exact .ok _
  · rename_i hne
    obtain ⟨t, ht⟩ := hok.exists_spansArena hne
    simp only [ht.arenaTree_eq]
    exact .ok _

/-- A walk never leaves an arena whose links lead to its nodes. -/
theorem walkFrom_unbroken {nodes : List Node} {root : Nat} (hroot : root < nodes.length)
    (hlinks : ∀ (k i : Nat) (n : Node), nodes[k]? = some n → n.hasChild i = true → i < nodes.length) {n j : Nat}
    {bits : Bits} (hn : n < nodes.length) : Unbroken (walkFrom nodes root n j bits) := by
  induction bits generalizing n j with
  | nil =>
    unfold walkFrom
    split
    · exact .ok _
    · exact .raise _ _
  | cons b bits ih =>
    unfold walkFrom
    split
    · rename_i hnone
      rw [List.getElem?_eq_none_iff] at hnone
      omega
    · exact .raise _ _
    · rename_i w l r hnode
      have hchild : (if b then r.toNat else l.toNat) < nodes.length :=
        hlinks n _ _ hnode (by cases b <;> simp [Node.hasChild])
      simp only
      split
      · rename_i hnone
        rw [List.getElem?_eq_none_iff] at hnone
        omega
      · exact .bind (ih hroot) fun _ _ => .ok _
      · exact ih hchild

theorem walk_unbroken {nodes : List Node} {root : NodeIndex} (hok : ArenaOk nodes root) (hne : nodes ≠ [])
    (bits : Bits) : Unbroken (walk nodes root bits) := by
  obtain ⟨t, ht⟩ := hok.exists_spansArena hne
  have hroot : root.toNat < nodes.length := ht.index ▸ ht.mem_indices.1 t.index_mem_indices
  exact walkFrom_unbroken hroot (fun _ _ _ => ht.child_lt) hroot

theorem boundedOutput_unbroken (cap : Word) (s : State) (out : List Byte) : Unbroken (boundedOutput cap s out) := by
  unfold boundedOutput
  split
  · exact .raise _ _
  · exact .ok _

theorem deser_unbroken (b : List Byte) (base : Nat) : Unbroken (deser b base) := .of_error fun e he => by
  rcases deser_error he with ⟨k, rfl⟩ | ⟨k, rfl | rfl | rfl | rfl⟩ <;> simp

theorem unpack_unbroken (P : List Byte) (pad : Nat) : Unbroken (unpack P pad) :=
  .of_error fun e he => by simp [unpack_error he]

theorem buildTree_unbroken (f : FreqTable) : Unbroken (buildTree f) :=
  .of_error fun e he => by simp [buildTree_error he]

theorem bitsOfBytes_unbroken (i : Nat) (S : List Byte) : Unbroken (bitsOfBytes i S) := .of_error fun e he => by
  obtain ⟨k, rfl⟩ := bitsOfBytes_error he
  simp

theorem encodeBits_unbroken (t : CodeTable) (i : Nat) (S : List Byte) : Unbroken (encodeBits t i S) :=
  .of_error fun e he => by
    obtain ⟨k, rfl⟩ := encodeBits_error he
    simp

theorem compressRun_unbroken (s : State) (S : List Byte) : Unbroken (compressRun s S) := by
  unfold compressRun
  split
  · exact .ok _
  · refine .bind (buildTree_unbroken _) fun tree htree => ?_
    obtain ⟨hok, hne⟩ := buildTree_arenaOk htree
    exact .bind (codes_unbroken hok hne) fun _ _ => .bind (ser_unbroken hok) fun _ _ => .ok _

theorem decompressRun_unbroken (s : State) (S : List Byte) : Unbroken (decompressRun s S) := by
  cases S with
  | nil => exact .ok _
  | cons p rest =>
    simp only [decompressRun, decompressData]
    split
    · exact .raise _ _
    · refine .bind (deser_unbroken _ _) fun nodes hnodes => ?_
      obtain ⟨hok, hne⟩ := deser_arenaOk hnodes
      exact .bind (unpack_unbroken _ _) fun bits _ => .bind (walk_unbroken hok hne bits) fun _ _ => .ok _

/-- Over an arena that meets its invariant no command meets a broken one (10_state R51). -/
theorem bodyOf_unbroken (i : Instr) {s : State} (S : List Byte) (hs : TreeOk s) : Unbroken (bodyOf i s S) := by
  cases i with
  | compress => exact .bind (compressRun_unbroken s S) fun _ _ => boundedOutput_unbroken _ _ _
  | decompress => exact .bind (decompressRun_unbroken s S) fun _ _ => boundedOutput_unbroken _ _ _
  | count => exact .ok _
  | build => exact .bind (buildTree_unbroken _) fun _ _ => .ok _
  | codegen =>
    simp only [bodyOf, codegenBody]
    split
    · exact .raise _ _
    · rename_i hne
      exact .bind (codes_unbroken hs hne) fun _ _ => .ok _
  | serialize => exact .bind (ser_unbroken hs) fun _ _ => boundedOutput_unbroken _ _ _
  | deserialize => exact .bind (deser_unbroken _ _) fun _ _ => .ok _
  | encode => exact .bind (encodeBits_unbroken _ _ _) fun _ _ => boundedOutput_unbroken _ _ _
  | decode =>
    simp only [bodyOf, decodeBody]
    split
    · exact .raise _ _
    · rename_i hne
      exact .bind (unpack_unbroken _ _) fun bits _ => .bind (walk_unbroken hs hne bits) fun _ _ =>
        boundedOutput_unbroken _ _ _
  | packbits => exact .bind (bitsOfBytes_unbroken _ _) fun _ _ => boundedOutput_unbroken _ _ _
  | unpackbits => exact .bind (unpack_unbroken _ _) fun _ _ => boundedOutput_unbroken _ _ _

/-- The grounds of the platform's refusals (93 U5, U9). -/
theorem platformCheck_cases {c : CmdInfo} {s : State} {r : Refusal} (h : platformCheck c s = some r) :
    r = .regionCoversCsrWindow ∨ r = .memoryCanFail := by
  unfold platformCheck at h
  split at h
  · exact .inl (by simpa using h.symm)
  · split at h
    · exact .inr (by simpa using h.symm)
    · cases h

/-- The stops of a command over an arena that meets its invariant: the platform's refusals (93 U5, U9). -/
theorem exec_stops (i : Instr) {s : State} (hs : TreeOk s) :
    (∃ t, exec i s = .next t) ∨ exec i s = .refused .regionCoversCsrWindow ∨ exec i s = .refused .memoryCanFail := by
  rcases exec_cases i s with ⟨code, -, he⟩ | ⟨-, r, hr, he⟩ | ⟨-, -, ⟨s', out, -, he⟩ | ⟨code, pos, -, he⟩ | ⟨hb, -⟩⟩
  · exact .inl ⟨_, he⟩
  · rcases platformCheck_cases hr with rfl | rfl
    · exact .inr (.inl he)
    · exact .inr (.inr he)
  · exact .inl ⟨_, he⟩
  · exact .inl ⟨_, he⟩
  · exact absurd hb (bodyOf_unbroken i _ hs)

/-- Settles O60: the lifecycle holds a command while `BUSY` = 1, the arena's tree keeps every command inside it. -/
theorem invariantStatesNeverBreak : Obligations.InvariantStatesNeverBreak := by
  intro s hs
  obtain ⟨s0, h0, he | ⟨op, he⟩ | ⟨hb, hnone, -⟩ | ⟨i, -, he⟩⟩ := step_eq_cases s
  · simp [he]
  · rcases hostMove_stops op s0 with ⟨t, h⟩ | ⟨a, h⟩ | h | h <;> simp [he, h]
  · obtain ⟨-, -, -, -, i, S, hi, -⟩ := (hs.lifecycle.turnTaken h0).1 hb
    simp [hnone] at hi
  · have htree : TreeOk s0 := by
      obtain ⟨ag, prog, rfl⟩ := h0
      exact hs.tree
    rcases exec_stops i htree with ⟨t, h⟩ | h | h <;> simp [he, h]

end Sys2Proof.Machine

/-! ## Register reads and writes, reset values (10_state R21 to R56) -/

namespace Sys2Proof.Machine

/-! ### Words bit by bit -/

theorem getLsbD_bitField (b : Bool) (i k : Nat) : (bitField b i).getLsbD k = (decide (k < 32 ∧ k = i) && b) := by
  cases b
  · simp [bitField]
  · simp only [bitField, if_true, BitVec.getLsbD_ofNat, Nat.testBit_two_pow]
    simp [eq_comm]

theorem natOfBits_concat (bits : Bits) (b : Bool) : natOfBits (bits ++ [b]) = 2 * natOfBits bits + b.toNat := by
  simp [natOfBits]

/-- Bit `i` of the number a bit sequence writes is its `i`-th bit from the end (20_memory R77). -/
theorem testBit_natOfBits (bits : Bits) (i : Nat) : (natOfBits bits).testBit i = bits.reverse.getD i false := by
  induction bits using List.reverseRecOn generalizing i with
  | nil => simp [natOfBits]
  | append_singleton bits b ih =>
    rw [natOfBits_concat, List.reverse_append]
    cases i with
    | zero => cases b <;> simp
    | succ i =>
      have hdiv : (2 * natOfBits bits + b.toNat) / 2 = natOfBits bits := by
        have := b.toNat_lt
        omega
      rw [Nat.testBit_succ, hdiv, ih]
      simp

/-- Bit `31 - j` of `CODE_Wk` is the code's bit `32k + j` (10_state R45). -/
theorem getLsbD_codeWordK (k : Nat) (code : Bits) {j : Nat} (hj : j < 32) :
    (codeWordK k (some code)).getLsbD (31 - j) = code.getD (32 * k + j) false := by
  simp only [codeWordK, BitVec.getLsbD_ofNat, testBit_natOfBits, List.getD_eq_getElem?_getD]
  rw [List.getElem?_reverse (by simp; omega)]
  have hidx : 32 - 1 - (31 - j) = j := by omega
  have hlt : 31 - j < 32 := by omega
  simp [hidx, hj, hlt]

/-- A field set above a narrower one adds to it. -/
theorem toNat_or_setWidth {n : Nat} (x : Word) (y : BitVec n) (h : 2 ^ n ∣ x.toNat) (hn : n ≤ 32) :
    (x ||| y.setWidth 32).toNat = x.toNat + y.toNat := by
  obtain ⟨q, hq⟩ := h
  rw [BitVec.toNat_or, BitVec.toNat_setWidth_of_le hn, hq, Nat.two_pow_add_eq_or_of_lt y.isLt]

theorem toNat_nodeChildWord (w : Word) (l r : NodeIndex) :
    (nodeChildWord (some (.internal w l r))).toNat = l.toNat + 65536 * r.toNat := by
  have hr := r.isLt
  have hhigh : (r.setWidth 32 <<< 16 : Word).toNat = 65536 * r.toNat := by
    simp [Nat.shiftLeft_eq]
    omega
  rw [nodeChildWord, BitVec.or_comm, toNat_or_setWidth _ _ (by rw [hhigh]; omega) (by omega), hhigh]
  omega

theorem toNat_nodeInfoWord_leaf (sym : Byte) (w : Word) :
    (nodeInfoWord (some (.leaf sym w))).toNat = 512 + 256 + sym.toNat :=
  toNat_or_setWidth 0x300#32 sym (by decide) (by omega)

theorem toNat_codeInfoWord {code : Bits} (h : code.length ≤ 255) :
    (codeInfoWord (some code)).toNat = 256 + code.length := by
  have hlen : (BitVec.ofNat 8 code.length).toNat = code.length := by
    rw [BitVec.toNat_ofNat, Nat.mod_eq_of_lt (by omega)]
  rw [codeInfoWord, toNat_or_setWidth _ _ (by decide) (by omega), hlen]
  rfl

/-- `DISTINCT` is the number of symbols with a non-zero count (10_state R34). -/
theorem State.distinct_eq_card (s : State) :
    s.distinct = (Finset.univ.filter (fun sym : Byte => entry s.freq sym ≠ 0)).card := by
  have hset : Finset.univ.filter (fun sym : Byte => entry s.freq sym ≠ 0) =
      (symbols.filter (fun sym => entry s.freq sym != 0)).toFinset := by
    ext sym; simp
  rw [hset, List.toFinset_card_of_nodup (symbols_nodup.filter _), State.distinct, List.countP_eq_length_filter]

/-! ### Register values -/

/-- Settles O11: by the node selected. -/
theorem nodeWindow : Obligations.NodeWindow := by
  intro s
  refine ⟨fun h => ?_, fun sym w h => ?_, fun w l r h => ?_⟩
  · have hnone : s.selectedNode = none := List.getElem?_eq_none h
    simp [State.csrValue, hnone, nodeInfoWord, nodeWeightWord, nodeChildWord]
  · have hnode : s.selectedNode = some (.leaf sym w) := h
    simp only [State.csrValue, hnode]
    exact ⟨toNat_nodeInfoWord_leaf sym w, rfl, rfl⟩
  · have hnode : s.selectedNode = some (.internal w l r) := h
    simp only [State.csrValue, hnode]
    exact ⟨rfl, rfl, toNat_nodeChildWord w l r⟩

/-- Settles O12: by the bits of the number that a code's 32 bits write. -/
theorem codeWindow : Obligations.CodeWindow := by
  intro s
  refine ⟨fun h => ?_, fun code h => ?_⟩
  · simp [State.csrValue, h, codeInfoWord, codeWordK]
  · simp only [State.csrValue, h]
    refine ⟨fun k j hj => getLsbD_codeWordK k.val code hj, fun hlen => ⟨toNat_codeInfoWord hlen, ?_⟩⟩
    have hlast := getLsbD_codeWordK 7 code (j := 31) (by omega)
    rw [List.getD_eq_default _ _ (by omega)] at hlast
    exact hlast

theorem State.getLsbD_statusWord (s : State) (k : Nat) :
    s.statusWord.getLsbD k = (decide (k = 0) && s.busy || decide (k = 1) && s.done || decide (k = 2) && s.err ||
      decide (k = 3) && s.treeValid || decide (k = 4) && s.ctValid) := by
  have hlt : ∀ i < 5, decide (k < 32 ∧ k = i) = decide (k = i) := fun i hi => decide_eq_decide.2 (by omega)
  simp [State.statusWord, getLsbD_bitField, hlt]

theorem State.toNat_csrValue_distinct (s : State) : (s.csrValue .distinct).toNat = s.distinct := by
  have hle : s.distinct ≤ symbols.length := List.countP_le_length
  rw [symbols_length] at hle
  exact (BitVec.toNat_ofNat _ _).trans (Nat.mod_eq_of_lt (by omega))

/-- Settles O13: each register's word is the state's field, its other bits 0. -/
theorem registerValues : Obligations.RegisterValues := by
  intro s
  have hstatus : ∀ k, (s.csrValue .status).getLsbD k = _ := s.getLsbD_statusWord
  have hbyte (b : Byte) : (b.setWidth 32).toNat = b.toNat := BitVec.toNat_setWidth_of_le (by omega)
  have hindex (i : NodeIndex) : (i.setWidth 32).toNat = i.toNat := BitVec.toNat_setWidth_of_le (by omega)
  refine ⟨rfl, ?ctrl, hbyte s.lastOp, ⟨?busy, ?done, ?err, ?treeValid, ?ctValid, ?above⟩, hbyte s.errCode, rfl, rfl,
    rfl, rfl, rfl, rfl, hbyte s.pad, s.toNat_csrValue_distinct.trans s.distinct_eq_card, hbyte s.freqSel, rfl, ?nodeCount,
    ?root, hindex s.nodeSel, hbyte s.codeSel⟩
  case ctrl => simp only [State.csrValue]; cases s.ie <;> rfl
  case busy => rw [hstatus]; simp
  case done => rw [hstatus]; simp
  case err => rw [hstatus]; simp [State.err, bne, beq_eq_decide]
  case treeValid => rw [hstatus]; simp [State.treeValid, State.nodeCount, bne, beq_eq_decide]
  case ctValid => rw [hstatus]; simp
  case above =>
    intro k hk
    have hne : ∀ i < 5, decide (k = i) = false := fun i hi => decide_eq_false (by omega)
    rw [hstatus]
    simp [hne]
  case nodeCount =>
    intro hlen
    exact (BitVec.toNat_ofNat _ _).trans (Nat.mod_eq_of_lt (by rw [State.nodeCount]; omega))
  case root =>
    simp only [State.csrValue]
    split
    · rfl
    · exact hindex s.root

/-! ### Reads and writes -/

theorem State.csrRead_changes (s : State) (offset : CsrOffset) :
    (s.csrRead offset).1.readLog = .csr offset (s.csrRead offset).2 :: s.readLog ∧
      (s.csrRead offset).1 =
        { s with readLog := (s.csrRead offset).1.readLog, draws := (s.csrRead offset).1.draws } := by
  unfold State.csrRead
  cases Csr.ofOffset offset <;> exact ⟨rfl, rfl⟩

theorem getLsbD_busyStatusWord (drawn : Word) (k : Nat) :
    (busyStatusWord drawn).getLsbD k = (decide (k = 0) || (decide (k = 3 ∨ k = 4) && drawn.getLsbD k)) := by
  have hmask : (0x18#32 : Word) = bitField true 3 ||| bitField true 4 := rfl
  have hone : (0x1#32 : Word) = bitField true 0 := rfl
  have hlt : ∀ i < 5, decide (k < 32 ∧ k = i) = decide (k = i) := fun i hi => decide_eq_decide.2 (by omega)
  rw [busyStatusWord, hmask, hone]
  simp [getLsbD_bitField, hlt, Bool.and_comm]

/-- Settles O9: by the classes of 10_state R47. -/
theorem csrReads : Obligations.CsrReads := by
  refine ⟨fun s c hb => ?_, fun s c hb => ?_⟩
  · simp [hostMove_csrr, State.csrRead_of_csr, State.readValue_idle hb, State.readDraws, hb]
  · obtain ⟨hlog, heq⟩ := s.csrRead_changes c.offset
    refine ⟨_, hostMove_csrr s c, heq, _, hlog, ?_⟩
    have hexact : ∀ c ∈ [Csr.id, .ctrl, .cmd, .srcAddr, .srcLen, .dstAddr, .dstCap, .freqSel, .nodeSel, .codeSel],
        busyRead c = .exact := by decide
    have hzero : ∀ c ∈ [Csr.errcode, .errpos, .outLen], busyRead c = .zero := by decide
    have hany : ∀ c ∈ [Csr.pad, .distinct, .freqVal, .nodeCount, .root, .nodeInfo, .nodeWeight, .nodeChild, .codeInfo],
        busyRead c = .anyValue := by decide
    simp only [State.csrRead_of_csr, State.readValue, State.readDraws, hb, if_true, Bool.true_and]
    refine ⟨fun hc => ?_, ?_, fun hc => ?_, fun hc => ?_⟩
    · simp [hexact c hc]
    · rintro rfl
      refine ⟨fun k h3 h4 => ?_, fun k hk => ?_, rfl⟩
      · simp [busyRead, getLsbD_busyStatusWord, h3, h4]
      · have h0 : k ≠ 0 := by omega
        simp [busyRead, getLsbD_busyStatusWord, hk, h0]
    · simp [hzero c hc]
    · have hclass : busyRead c = .anyValue := by
        rcases hc with hc | ⟨k, rfl⟩
        · exact hany c hc
        · rfl
      simp [hclass]

theorem extractLsb'_zero_eq_ofNat (n : Nat) (v : Word) : v.extractLsb' 0 n = BitVec.ofNat n v.toNat := rfl

/-- Settles O8: by the register written. -/
theorem csrWrites : Obligations.CsrWrites := by
  intro s c v
  simp only [hostMove_csrw]
  refine ⟨fun hb hc => ?locked, fun hb => ?idle, rfl, rfl, rfl, fun hv => ?ie, fun hv => ?reset, fun hv => ?keepDone,
    fun hv hb => ?clearDone, fun hv hb => ?busyDone, ?readOnly⟩
  case locked =>
    simp only [List.mem_cons, List.not_mem_nil, or_false] at hc
    rcases hc with rfl | rfl | rfl | rfl | rfl | rfl <;> simp [State.csrWrite, State.accept, hb]
  case idle => simp [State.csrWrite, hb, extractLsb'_zero_eq_ofNat]
  case ie => simp only [State.csrWrite, State.writeCtrl, hv, Bool.false_eq_true, if_false]
  case reset => simp [State.csrWrite, State.writeCtrl, hv]
  case keepDone => simp only [State.csrWrite, State.writeStatus, hv, Bool.false_and, Bool.false_eq_true, if_false]
  case clearDone => simp [State.csrWrite, State.writeStatus, hv, hb]
  case busyDone => simp [State.csrWrite, State.writeStatus, hb]
  case readOnly =>
    rintro (hc | ⟨k, rfl⟩)
    · simp only [List.mem_cons, List.not_mem_nil, or_false] at hc
      rcases hc with rfl | rfl | rfl | rfl | rfl | rfl | rfl | rfl | rfl | rfl | rfl | rfl <;> rfl
    · rfl

theorem State.csrRead_reserved (s : State) : (s.csrRead 0x7C#7).2 = 0 := rfl

/-- Settles O10: by the check of the access. -/
theorem csrAccessWidthAndAlignment : Obligations.CsrAccessWidthAndAlignment := by
  intro s width offset v
  have hok : csrAccessOk width offset = true ↔ width = .word ∧ offset.toNat % 4 = 0 := by simp [csrAccessOk]
  refine ⟨fun hw ha => ?_, fun hbad => ?_⟩
  · have hacc := hok.2 ⟨hw, ha⟩
    simp only [hostMove, hostCsrRead, hostCsrWrite, hacc, if_true]
    obtain ⟨hlog, heq⟩ := s.csrRead_changes offset
    refine ⟨⟨_, _, rfl, hlog, heq, ?_⟩, ⟨_, rfl⟩, ?_⟩
    · rintro rfl; exact s.csrRead_reserved
    · rintro rfl; rfl
  · have hacc : csrAccessOk width offset = false := by rwa [← Bool.not_eq_true, hok]
    simp [hostMove, hostCsrRead, hostCsrWrite, hacc]

/-! ### Reset -/

/-- The core's fields have their reset values. -/
theorem State.coreReset_eq (s : State) : s.coreReset = { State.reset with
    mem := s.coreReset.mem
    platform := s.platform
    program := s.program
    agenda := s.agenda
    readLog := s.readLog
    draws := s.coreReset.draws } := by
  rcases s.coreReset_cases with ⟨-, he⟩ | ⟨i, -, he⟩ <;> rw [he] <;> simp [State.clearCore]

/-- Settles O16: reset leaves nothing of the core's state unspecified. -/
theorem resetValues : Obligations.ResetValues := by
  refine ⟨fun s t hidle h => ?_, fun t ht => ?_⟩
  · cases h
    simp [State.coreReset, hidle]
  · obtain ⟨m, pl, prog, ag, log, n, rfl⟩ : ∃ m pl prog ag log n, t = { State.reset with
        mem := m, platform := pl, program := prog, agenda := ag, readLog := log, draws := n } := by
      rcases ht with rfl | ⟨s, h⟩
      · exact ⟨_, _, _, _, _, _, rfl⟩
      · cases h
        exact ⟨_, _, _, _, _, _, s.coreReset_eq⟩
    refine ⟨rfl, rfl, rfl, rfl, rfl, rfl, rfl, rfl, rfl, rfl, rfl, rfl, rfl, rfl, rfl, fun sym => entry_replicate _ sym,
      ?_, rfl, rfl, rfl, fun sym => entry_replicate _ sym, rfl, rfl, rfl, rfl, rfl⟩
    simp [State.distinct, State.reset]

/-- Settles O53: nothing is held, counted or built. -/
theorem resetMeetsTheInvariants : Obligations.ResetMeetsTheInvariants where
  memory := ⟨.nil, fun c hc => by cases hc⟩
  tree := ⟨Nat.zero_le _, .inl ⟨rfl, rfl⟩⟩
  codeTable := .inl ⟨rfl, fun sym => entry_replicate _ sym⟩
  lifecycle := lifecycleOk_of_idle rfl rfl rfl
  counts := by
    have hzero : totalCount State.reset.freq = 0 := List.sum_eq_zero fun n hn => by
      obtain ⟨sym, -, rfl⟩ := List.mem_map.1 hn
      exact congrArg BitVec.toNat (entry_replicate 0 sym)
    rw [CountsOk, hzero]
    exact Nat.zero_le _

end Sys2Proof.Machine

/-! ## What a command does to memory, and when the platform refuses it (20_memory R70 to R75, R85) -/

namespace Sys2Proof.Machine

/-! ### The platform's refusals (93 U5, U9) -/

theorem mem_activeRegions {c : CmdInfo} {s : State} {q : Region} :
    q ∈ activeRegions c s ↔ (c.readsSrc = true ∧ q = s.srcRegion) ∨ (c.writesDst = true ∧ q = s.dstRegion) := by
  cases hr : c.readsSrc <;> cases hw : c.writesDst <;> simp [activeRegions, hr, hw]

/-- An active region of the command shares an address with `r`. -/
def ActiveMeets (c : CmdInfo) (s : State) (r : Region) : Prop :=
  ∃ q, ((c.readsSrc = true ∧ q = s.srcRegion) ∨ (c.writesDst = true ∧ q = s.dstRegion)) ∧
    ∃ a, q.contains a = true ∧ r.contains a = true

theorem activeMeets_iff_any_overlaps (c : CmdInfo) (s : State) (r : Region) :
    (activeRegions c s).any (fun q => q.overlaps r) = true ↔ ActiveMeets c s r := by
  simp only [List.any_eq_true, mem_activeRegions, Region.overlaps_iff_exists, ActiveMeets]

theorem exists_failing_activeMeets_iff (c : CmdInfo) (s : State) :
    (activeRegions c s).any (fun q => s.platform.failing.any (fun f => q.overlaps f)) = true ↔
      ∃ f ∈ s.platform.failing, ActiveMeets c s f := by
  simp only [← activeMeets_iff_any_overlaps, List.any_eq_true]
  constructor
  · rintro ⟨q, hq, f, hf, ho⟩
    exact ⟨f, hf, q, hq, ho⟩
  · rintro ⟨f, hf, q, hq, ho⟩
    exact ⟨q, hq, f, hf, ho⟩

/-- The platform's check in terms of shared addresses: the window first, then the addresses that can fail (log
entry 15). -/
theorem platformCheck_grounds (c : CmdInfo) (s : State) :
    (ActiveMeets c s s.csrWindow ∧ platformCheck c s = some .regionCoversCsrWindow) ∨
    (¬ActiveMeets c s s.csrWindow ∧ (∃ f ∈ s.platform.failing, ActiveMeets c s f) ∧
      platformCheck c s = some .memoryCanFail) ∨
    (¬ActiveMeets c s s.csrWindow ∧ (¬∃ f ∈ s.platform.failing, ActiveMeets c s f) ∧ platformCheck c s = none) := by
  rw [← exists_failing_activeMeets_iff, ← activeMeets_iff_any_overlaps]
  unfold platformCheck
  split
  · exact .inl ⟨‹_›, rfl⟩
  · split
    · exact .inr (.inl ⟨‹_›, ‹_›, rfl⟩)
    · exact .inr (.inr ⟨‹_›, ‹_›, rfl⟩)

/-- A command is refused by the platform's check alone, and only after its start checks (log entry 15). -/
theorem exec_eq_refused_iff {i : Instr} {s : State} {r : Refusal} :
    exec i s = .refused r ↔ startCheck (cmdInfo i) s = none ∧ platformCheck (cmdInfo i) s = some r := by
  rcases exec_cases i s with ⟨code, h0, he⟩ | ⟨h0, r', hr, he⟩ | ⟨h0, hr, hrun⟩
  · simp [he, h0]
  · simp [he, h0, hr]
  · rcases hrun with ⟨s', out, -, he⟩ | ⟨code, pos, -, he⟩ | ⟨-, he⟩ <;> simp [he, hr]

/-- Settles O19: a command that passes its start checks is refused as the platform's check says, which is on the
ground of a shared address. -/
theorem platformRefusals : Obligations.PlatformRefusals := by
  intro s i active meets
  refine ⟨fun h0 hwin => exec_eq_refused_iff.2 ⟨h0, ?_⟩, fun h0 hwin hfail => exec_eq_refused_iff.2 ⟨h0, ?_⟩,
    fun r h => ?_⟩
  · rcases platformCheck_grounds (cmdInfo i) s with ⟨-, hr⟩ | ⟨hnot, -⟩ | ⟨hnot, -⟩
    · exact hr
    · exact absurd hwin hnot
    · exact absurd hwin hnot
  · rcases platformCheck_grounds (cmdInfo i) s with ⟨hmeets, -⟩ | ⟨-, -, hr⟩ | ⟨-, hnot, -⟩
    · exact absurd hmeets hwin
    · exact hr
    · exact absurd hfail hnot
  · obtain ⟨h0, hr⟩ := exec_eq_refused_iff.1 h
    refine ⟨h0, ?_⟩
    rcases platformCheck_grounds (cmdInfo i) s with ⟨hwin, -⟩ | ⟨-, hfail, -⟩ | ⟨-, -, hnone⟩
    · exact .inl hwin
    · exact .inr hfail
    · simp [hnone] at hr

/-! ### The bytes a command writes (20_memory R74, R75) -/

theorem ErrorCode.value_ne_zero (code : ErrorCode) : code.value ≠ 0 := by
  cases code <;> decide

section
variable {c : CmdInfo} {s s' : State} {out : List Byte}

theorem BodyWrites.mem_eq (h : BodyWrites c s s' out) : s'.mem = s.mem := by rw [h.state]

theorem BodyWrites.dstAddr_eq (h : BodyWrites c s s' out) : s'.dstAddr = s.dstAddr := by rw [h.state]

/-- Success writes the output's bytes and no others. -/
theorem BodyWrites.sameMemoryButOutput (h : BodyWrites c s s' out) :
    SameMemoryButOutput s (s'.completeOk out) out.length := fun a ha => by
  rw [State.completeOk_mem, h.mem_eq, h.dstAddr_eq]
  exact Memory.read_writeRange_outside s.mem ha

theorem BodyWrites.outputIs (h : BodyWrites c s s' out) : OutputIs s (s'.completeOk out) out := by
  rw [OutputIs, State.completeOk_mem, h.dstAddr_eq]
  exact Memory.readRange_writeRange _ _ _

/-- `OUT_LEN` holds the length of the output: `DST_CAP` bounds it (30_encoding R106). -/
theorem BodyWrites.toNat_outLen (h : BodyWrites c s s' out) : (s'.completeOk out).outLen.toNat = out.length := by
  rw [State.completeOk_outLen, BitVec.toNat_ofNat]
  exact Nat.mod_eq_of_lt (h.bound.trans_lt s.dstCap.isLt)

/-- The output lies in the destination region of a command that has one. -/
theorem BodyWrites.mem_dstRegion (h : BodyWrites c s s' out) {a : Nat}
    (ha : s.dstAddr.toNat ≤ a ∧ a < s.dstAddr.toNat + out.length) :
    c.writesDst = true ∧ s.dstRegion.contains a = true := by
  refine ⟨?_, (Region.contains_iff _ _).2 ⟨ha.1, ha.2.trans_le (Nat.add_le_add_left h.bound _)⟩⟩
  by_contra hw
  rw [h.noOutput (by simpa using hw), List.length_nil] at ha
  omega

end

/-- A command writes a byte only in its destination region, and only after its start checks (20_memory R74, R75). -/
theorem exec_read_unchanged {i : Instr} {s t : State} (h : exec i s = .next t) {a : Nat}
    (ha : startCheck (cmdInfo i) s = none → (cmdInfo i).writesDst = true → s.dstRegion.contains a = false) :
    Memory.read t.mem a = Memory.read s.mem a := by
  rcases exec_next_cases h with ⟨code, -, rfl⟩ | ⟨h0, -, code, pos, -, -, rfl⟩ | ⟨h0, -, s', out, -, hw, rfl⟩
  · rfl
  · cases hdst : (cmdInfo i).writesDst with
    | false => simp [State.completeError, freeDst_of_not_writesDst hdst]
    | true => exact s.completeError_read_outside _ code pos (ha h0 hdst)
  · refine hw.sameMemoryButOutput a fun hin => ?_
    obtain ⟨hdst, hmem⟩ := hw.mem_dstRegion hin
    simp [ha h0 hdst] at hmem

/-- A command whose record shows no error ended its pseudocode with writes and an output. -/
theorem exec_succeeded {i : Instr} {s t : State} (h : exec i s = .next t) (h0 : t.errCode = 0) :
    ∃ s' out, bodyOf i s (s.snap.getD []) = .ok (s', out) ∧ BodyWrites (cmdInfo i) s s' out ∧
      t = s'.completeOk out := by
  rcases exec_next_cases h with ⟨code, -, rfl⟩ | ⟨-, -, code, pos, -, -, rfl⟩ | ⟨-, -, s', out, hb, hw, rfl⟩
  · exact absurd h0 code.value_ne_zero
  · exact absurd h0 code.value_ne_zero
  · exact ⟨s', out, hb, hw, rfl⟩

/-- Settles O21: the only bytes written lie in the destination region, which a command that passes its start checks
has apart from its source region; success writes the output there. -/
theorem destinationWrites : Obligations.DestinationWrites := by
  intro s t i h
  refine ⟨fun a ha => exec_read_unchanged h fun _ _ => ?_, fun hi a => exec_read_unchanged h fun _ hdst => ?_,
    fun hsrc a ha => exec_read_unchanged h fun hstart hdst => ?_, fun h0 => ?_⟩
  · rwa [← Bool.not_eq_true, Region.contains_iff]
  · have hnot : (cmdInfo i).writesDst = false := by
      revert hi
      cases i <;> decide
    simp [hnot] at hdst
  · exact Region.not_contains_of_not_overlaps (((startCheck_eq_none_iff _ s).1 hstart).2.2 hsrc hdst) ha
  · obtain ⟨s', out, hb, hw, rfl⟩ := exec_succeeded h h0
    exact ⟨s', out, hb, rfl, ⟨rfl, rfl⟩, ⟨rfl, rfl⟩, rfl, hw.bound, hw.toNat_outLen, hw.outputIs,
      hw.sameMemoryButOutput, rfl, rfl, rfl⟩

/-! ### Another memory, the same snapshot (20_memory R73) -/

theorem exec_eq_completeRun {i : Instr} {s : State} (h0 : startCheck (cmdInfo i) s = none)
    (h1 : platformCheck (cmdInfo i) s = none) :
    exec i s = completeRun (cmdInfo i) s (bodyOf i s (s.snap.getD [])) := by
  simp [exec_eq_complete, complete, h0, h1]

/-- An error's effects but for memory do not depend on memory. -/
theorem State.completeError_withMem (s : State) (c : CmdInfo) (code : ErrorCode) (pos : Nat) (m : Memory) :
    { State.completeError { s with mem := m } c code pos with mem := [] } =
      { s.completeError c code pos with mem := [] } := by
  unfold State.completeError State.freeDst
  split <;> rfl

/-- Settles O23: the checks read the configuration alone, the pseudocode `S` and the tables, so both runs end in the
same case. -/
theorem resultDependsOnlyOnTheSnapshot : Obligations.ResultDependsOnlyOnTheSnapshot := by
  intro s t i m h
  have hstart : startCheck (cmdInfo i) { s with mem := m } = startCheck (cmdInfo i) s := startCheck_congr rfl rfl
  have hplat : platformCheck (cmdInfo i) { s with mem := m } = platformCheck (cmdInfo i) s :=
    platformCheck_congr rfl rfl rfl
  rcases exec_next_cases h with ⟨code, h0, rfl⟩ | ⟨h0, h1, code, pos, hb, -, rfl⟩ | ⟨h0, h1, s', out, hb, hw, rfl⟩
  · refine ⟨State.completeStartError { s with mem := m } code, ?_, rfl, fun hok => absurd hok code.value_ne_zero⟩
    rw [exec_eq_complete, complete_of_startCheck (hstart.trans h0)]
  · refine ⟨_, ?_, s.completeError_withMem (cmdInfo i) code pos m, fun hok => absurd hok code.value_ne_zero⟩
    rw [exec_eq_completeRun (hstart.trans h0) (hplat.trans h1), bodyOf_withMem, hb]
    rfl
  · have hb' : bodyOf i { s with mem := m } (s.snap.getD []) = .ok ({ s' with mem := m }, out) := by
      rw [bodyOf_withMem, hb]
      rfl
    refine ⟨State.completeOk { s' with mem := m } out, ?_, rfl, fun _ => ?_⟩
    · rw [exec_eq_completeRun (hstart.trans h0) (hplat.trans h1), hb']
      rfl
    · rw [hw.toNat_outLen]
      exact (bodyOf_ok hb').outputIs.trans hw.outputIs.symm

end Sys2Proof.Machine

/-! ## Command words, acceptance and completion (30_encoding R90 to R93, R104, R105) -/

namespace Sys2Proof

/-! ### The opcode map (30_encoding R91, R92) -/

/-- The opcodes of the map are the numbers from 0x01 to 0x0B. -/
theorem exists_opcodeTable_row_iff (op : Byte) :
    (∃ row ∈ opcodeTable, row.1 = op) ↔ 1 ≤ op.toNat ∧ op.toNat < 0x0C := by
  have hnumbers : opcodeTable.map (fun row => row.1.toNat) = List.range' 1 11 := rfl
  have hmem : op.toNat ∈ opcodeTable.map (fun row => row.1.toNat) ↔ ∃ row ∈ opcodeTable, row.1 = op := by
    simp only [List.mem_map, BitVec.toNat_inj]
  rw [← hmem, hnumbers, List.mem_range'_1]

/-- Everything the decoder can answer for an opcode: the command of its row, or the rejection of one with no row. -/
theorem decodeOp_cases (op : Byte) :
    (∃ row ∈ opcodeTable, row.1 = op ∧ decodeOp op = .ok row.2) ∨
      ((¬∃ row ∈ opcodeTable, row.1 = op) ∧ decodeOp op = .error (.reservedOpcode op)) := by
  unfold decodeOp
  cases hfind : opcodeTable.find? (fun row => row.1 == op) with
  | some row =>
    have hop : (row.1 == op) = true := List.find?_some (p := fun row : Byte × Instr => row.1 == op) hfind
    exact .inl ⟨row, List.mem_of_find?_eq_some hfind, beq_iff_eq.1 hop, rfl⟩
  | none =>
    refine .inr ⟨?_, rfl⟩
    rintro ⟨row, hmem, hop⟩
    exact List.find?_eq_none.1 hfind row hmem (beq_iff_eq.2 hop)

theorem decodeOp_opcodeOf (i : Instr) : decodeOp (opcodeOf i) = .ok i := by
  cases i <;> rfl

theorem decodeOp_eq_ok_iff {op : Byte} {i : Instr} : decodeOp op = .ok i ↔ op = opcodeOf i := by
  refine ⟨fun h => ?_, fun h => h ▸ decodeOp_opcodeOf i⟩
  have hrows : ∀ row ∈ opcodeTable, row.1 = opcodeOf row.2 := by decide
  rcases decodeOp_cases op with ⟨row, hmem, hop, he⟩ | ⟨-, he⟩ <;> rw [he] at h <;> cases h
  exact hop.symm.trans (hrows row hmem)

/-- The reserved opcodes are 0x00 and those from 0x0C on (30_encoding R92). -/
theorem exists_decodeOp_eq_error_iff (op : Byte) :
    (∃ e, decodeOp op = .error e) ↔ op.toNat = 0 ∨ 0x0C ≤ op.toNat := by
  have hrow := exists_opcodeTable_row_iff op
  rcases decodeOp_cases op with ⟨row, hmem, hop, he⟩ | ⟨hno, he⟩
  · have hrange := hrow.1 ⟨row, hmem, hop⟩
    simp only [he, reduceCtorEq, exists_false, false_iff]
    omega
  · rw [hrow] at hno
    simp only [he, Except.error.injEq, exists_eq', true_iff]
    omega

/-! ### Command words (30_encoding R90, R91) -/

theorem toNat_opField (w : Word) : (opField w).toNat = w.toNat % 256 := by
  simp [opField]

/-- The mask 0x000000FF keeps the opcode field and clears bits 31:8. -/
theorem and_mask_eq_setWidth_opField (w : Word) : w &&& 0x000000FF#32 = (opField w).setWidth 32 := by
  apply BitVec.eq_of_toNat_eq
  rw [BitVec.toNat_setWidth_of_le (by omega), toNat_opField, BitVec.toNat_and]
  exact Nat.and_two_pow_sub_one_eq_mod w.toNat 8

@[simp] theorem opField_encode (i : Instr) : opField (encode i) = opcodeOf i := by
  cases i <;> rfl

/-- The decoder looks at the opcode field alone (30_encoding R91). -/
theorem decode_eq_ok_iff {w : Word} {i : Instr} : decode w = .ok i ↔ opField w = opcodeOf i := decodeOp_eq_ok_iff

@[simp] theorem decode_encode (i : Instr) : decode (encode i) = .ok i := decode_eq_ok_iff.2 (opField_encode i)

theorem and_mask_eq_encode_iff {w : Word} {i : Instr} : w &&& 0x000000FF#32 = encode i ↔ opField w = opcodeOf i := by
  rw [and_mask_eq_setWidth_opField, encode, ← BitVec.toNat_inj, ← BitVec.toNat_inj,
    BitVec.toNat_setWidth_of_le (by omega), BitVec.toNat_setWidth_of_le (by omega)]

/-- Settles O1: both sides say that the opcode field holds the command's opcode. -/
theorem decodeMatchesMaskedOpcode : Obligations.DecodeMatchesMaskedOpcode := by
  refine ⟨fun w i => decode_eq_ok_iff.trans and_mask_eq_encode_iff.symm, fun w => ?_, rfl⟩
  rw [← toNat_opField]
  exact exists_decodeOp_eq_error_iff (opField w)

/-- Settles O2: each word's opcode field is looked up in the map. -/
theorem writtenOutWordsDecode : Obligations.WrittenOutWordsDecode :=
  ⟨rfl, rfl, rfl, rfl, rfl, rfl, rfl, rfl, rfl⟩

end Sys2Proof

namespace Sys2Proof.Machine

/-! ### The command in flight (30_encoding R105; 10_state R54) -/

theorem State.inFlight_of_curOp {s : State} {op : Byte} {i : Instr} (hb : s.busy = true) (hop : s.curOp = some op)
    (hdec : decodeOp op = .ok i) : s.inFlight = some i := by
  simp [State.inFlight, hb, hop, hdec, Except.toOption]

theorem coreStep_of_inFlight {s : State} {i : Instr} (h : s.inFlight = some i) : coreStep s = exec i s := by
  simp [coreStep, h, (State.inFlight_eq_some h).1]

theorem step_of_no_agenda {s : State} {i : Instr} (hag : s.agenda = []) (h : s.inFlight = some i) :
    step s = exec i s := by
  simp [step, hag, (State.inFlight_eq_some h).1, coreStep_of_inFlight h]

theorem step_of_core_turn {s : State} {i : Instr} {rest : List Agent} (hag : s.agenda = .core :: rest)
    (h : s.inFlight = some i) : step s = exec i { s with agenda := rest } := by
  have h' : State.inFlight { s with agenda := rest } = some i := h
  simp [step, hag, coreStep_of_inFlight h']

/-- A reserved opcode completes at the `CMD` write with `BAD_CMD` (30_encoding R104). -/
theorem State.accept_of_reserved {s : State} {v : Word} (hb : s.busy = false) (hv : ¬∃ i, decode v = .ok i) :
    s.accept v = { s with lastOp := opField v, done := true, errCode := 0x01#8, errPos := 0, outLen := 0 } := by
  rcases s.accept_cases v with ⟨hbusy, -⟩ | ⟨-, -, he⟩ | ⟨-, hok, -⟩
  · simp [hb] at hbusy
  · exact he
  · exact absurd hok hv

/-- A command's opcode starts the command over the source region as it stands (30_encoding R104). -/
theorem State.accept_of_decode {s : State} {v : Word} {i : Instr} (hb : s.busy = false) (hv : decode v = .ok i) :
    s.accept v = { s with
      lastOp := opField v
      done := false
      errCode := 0
      errPos := 0
      outLen := 0
      curOp := some (opField v)
      snap := some s.source
      busy := true } := by
  rcases s.accept_cases v with ⟨hbusy, -⟩ | ⟨-, ⟨e, herr⟩, -⟩ | ⟨-, -, he⟩
  · simp [hb] at hbusy
  · simp [hv] at herr
  · exact he

theorem State.accept_of_busy {s : State} {v : Word} (hb : s.busy = true) : s.accept v = s := by
  simp [State.accept, hb]

theorem State.accept_inFlight {s : State} {v : Word} {i : Instr} (hb : s.busy = false) (hv : decode v = .ok i) :
    (s.accept v).inFlight = some i := by
  rw [State.accept_of_decode hb hv]
  exact State.inFlight_of_curOp rfl rfl hv

theorem tableWord_encode (i : Instr) : tableWord 32 (encode i).toNat = encode i := by
  rw [tableWord, Nat.mod_eq_of_lt (encode i).isLt, BitVec.ofNat_toNat, BitVec.setWidth_eq]

theorem State.withFetchWord_inFlight (s : State) (i : Instr) :
    (s.withFetchWord 32 (encode i).toNat).inFlight = some i := by
  have haccept : (State.accept { s with busy := false } (encode i)).inFlight = some i :=
    State.accept_inFlight rfl (decode_encode i)
  rw [← haccept, State.withFetchWord, tableWord_encode]
  rfl

theorem State.withFetchWord_agenda_nil {s : State} (hag : s.agenda = []) (nbits w : Nat) :
    (s.withFetchWord nbits w).agenda = [] := by
  simp [State.withFetchWord, hag]

/-- Settles O3: in each case the command is in flight and the turn is the core's. -/
theorem stepRunsTheDecodedCommand : Obligations.StepRunsTheDecodedCommand := by
  refine ⟨fun s op i hb hop hdec => ?_, fun s i hag => ?_⟩
  · have hi : s.inFlight = some i := State.inFlight_of_curOp hb hop hdec
    exact ⟨fun hag => step_of_no_agenda hag hi, fun rest hag => step_of_core_turn hag hi⟩
  · exact step_of_no_agenda (State.withFetchWord_agenda_nil hag _ _) (s.withFetchWord_inFlight i)

/-- Settles O7: by the three cases of a `CMD` write; the source region of the last clause is in range. -/
theorem cmdWriteAcceptance : Obligations.CmdWriteAcceptance := by
  intro s v
  have hmove : hostMove (csrw .cmd v) s = .next (s.accept v) := hostMove_csrw s .cmd v
  rw [hmove]
  refine ⟨fun hb => by rw [State.accept_of_busy hb], fun hb hv => by rw [State.accept_of_reserved hb hv],
    fun i hb hv => by rw [State.accept_of_decode hb hv], fun hend => ?_⟩
  have hrange : s.srcRegion.inRange = true := (Region.inRange_iff _).2 hend
  exact ⟨s.source_length hrange, fun k hk => s.source_getElem? hrange hk⟩

/-! ### What a command leaves unchanged (30_encoding R93) -/

theorem cmdInfo_writesFreq_iff (i : Instr) : (cmdInfo i).writesFreq = true ↔ i ∈ [Instr.compress, .count] := by
  cases i <;> decide

theorem cmdInfo_writesTree_iff (i : Instr) :
    (cmdInfo i).writesTree = true ↔ i ∈ [Instr.compress, .decompress, .build, .deserialize] := by
  cases i <;> decide

theorem cmdInfo_writesCt_iff (i : Instr) :
    (cmdInfo i).writesCt = true ↔ i ∈ [Instr.compress, .decompress, .build, .codegen, .deserialize] := by
  cases i <;> decide

theorem cmdInfo_writesPad_iff (i : Instr) :
    (cmdInfo i).writesPad = true ↔ i ∈ [Instr.compress, .decompress, .encode, .packbits] := by
  cases i <;> decide

/-- The frame of a command with the write set of `c`: memory and the completion record apart, only the write set
differs. -/
structure CommandFrame (c : CmdInfo) (s t : State) : Prop where
  config : SameConfig s t
  surroundings : SameSurroundings s t
  freq : c.writesFreq ≠ true → t.freq = s.freq
  tree : c.writesTree ≠ true → SameTree s t
  codeTable : c.writesCt ≠ true → SameCodeTable s t
  pad : c.writesPad ≠ true → t.pad = s.pad

theorem State.completeStartError_frame (s : State) (c : CmdInfo) (code : ErrorCode) :
    CommandFrame c s (s.completeStartError code) where
  config := ⟨rfl, rfl, rfl, rfl, rfl, rfl, rfl, rfl, rfl⟩
  surroundings := ⟨rfl, rfl, rfl, rfl⟩
  freq _ := rfl
  tree _ := ⟨rfl, rfl⟩
  codeTable _ := ⟨rfl, rfl⟩
  pad _ := rfl

theorem State.completeError_frame (s : State) (c : CmdInfo) (code : ErrorCode) (pos : Nat) :
    CommandFrame c s (s.completeError c code pos) where
  config := by simp [SameConfig, State.completeError]
  surroundings := by simp [SameSurroundings, State.completeError]
  freq hc := by simp [State.completeError, hc]
  tree hc := by simp [SameTree, State.completeError, hc]
  codeTable hc := by simp [SameCodeTable, State.completeError, hc]
  pad hc := by simp [State.completeError, hc]

theorem BodyWrites.frame {c : CmdInfo} {s s' : State} {out : List Byte} (h : BodyWrites c s s' out) :
    CommandFrame c s (s'.completeOk out) where
  config := by rw [h.state]; exact ⟨rfl, rfl, rfl, rfl, rfl, rfl, rfl, rfl, rfl⟩
  surroundings := by rw [h.state]; exact ⟨rfl, rfl, rfl, rfl⟩
  freq hc := h.freq (eq_false_of_ne_true hc)
  tree hc := h.tree (eq_false_of_ne_true hc)
  codeTable hc := h.ct (eq_false_of_ne_true hc)
  pad hc := h.pad (eq_false_of_ne_true hc)

theorem exec_frame {i : Instr} {s t : State} (h : exec i s = .next t) : CommandFrame (cmdInfo i) s t := by
  rcases exec_next_cases h with ⟨code, -, rfl⟩ | ⟨-, -, code, pos, -, -, rfl⟩ | ⟨-, -, s', out, -, hw, rfl⟩
  · exact s.completeStartError_frame _ code
  · exact s.completeError_frame _ code pos
  · exact hw.frame

/-- Settles O22: the frame of a command, its write set read off the table of 30_encoding R93. -/
theorem writeSets : Obligations.WriteSets := by
  intro s t i h
  rw [← cmdInfo_writesFreq_iff, ← cmdInfo_writesTree_iff, ← cmdInfo_writesCt_iff, ← cmdInfo_writesPad_iff]
  have hframe := exec_frame h
  exact ⟨hframe.config, hframe.surroundings, hframe.freq, hframe.tree, hframe.codeTable, hframe.pad⟩

/-! ### Every command completes (30_encoding R105) -/

/-- Over an arena that meets its invariant the platform alone stops a command (10_state R51; 93 U5, U9). -/
theorem exists_exec_eq_next {i : Instr} {s : State} (hs : TreeOk s) (hplat : platformCheck (cmdInfo i) s = none) :
    ∃ t, exec i s = .next t := by
  have hnot : ∀ r, exec i s ≠ .refused r := fun r h => by
    have hsome := (exec_eq_refused_iff.1 h).2
    simp [hplat] at hsome
  rcases exec_stops i hs with hnext | href | href
  · exact hnext
  · exact absurd href (hnot _)
  · exact absurd href (hnot _)

/-- Settles O24: no command leaves an arena that meets its invariant, so with the platform's consent it answers a next
state, which holds the completion record. -/
theorem everyCommandCompletes : Obligations.EveryCommandCompletes := by
  intro s i hs hplat
  obtain ⟨t, ht⟩ := exists_exec_eq_next hs hplat
  obtain ⟨hbusy, hdone, -, -⟩ := exec_next_done ht
  exact ⟨t, ht, hbusy, hdone⟩

end Sys2Proof.Machine

/-! ## The counts (40_count_build R110, R111)

COUNT and COMPRESS write the counts of a source, reset and an error clear them; nothing else writes `FREQ`. -/

namespace Sys2Proof.Machine

theorem occurrences_eq_count (S : List Byte) (sym : Byte) : occurrences S sym = S.count sym := rfl

@[simp] theorem entry_countTable (S : List Byte) (sym : Byte) :
    entry (countTable S) sym = BitVec.ofNat 32 (S.count sym) :=
  entry_table _ sym

/-- A count is exact where the source is shorter than 2^32 bytes. -/
theorem toNat_entry_countTable {S : List Byte} (hS : S.length < 2 ^ 32) (sym : Byte) :
    (entry (countTable S) sym).toNat = S.count sym := by
  have hle : S.count sym ≤ S.length := List.count_le_length
  rw [entry_countTable, BitVec.toNat_ofNat, Nat.mod_eq_of_lt (by omega)]

/-- The numbers of occurrences of all symbols sum to the length. -/
theorem sum_count_of_subset {syms S : List Byte} (hnodup : syms.Nodup) (h : ∀ sym ∈ S, sym ∈ syms) :
    (syms.map (fun sym => S.count sym)).sum = S.length := by
  rw [← List.sum_toFinset _ hnodup]
  simpa using Multiset.sum_count_eq_card (s := syms.toFinset) (m := (S : Multiset Byte)) (by simpa using h)

theorem totalCount_countTable_le (S : List Byte) : totalCount (countTable S) ≤ S.length := by
  rw [← sum_count_of_subset symbols_nodup fun sym _ => mem_symbols sym]
  refine List.sum_le_sum fun sym _ => ?_
  rw [entry_countTable, BitVec.toNat_ofNat]
  exact Nat.mod_le _ _

@[simp] theorem totalCount_replicate : totalCount (Vector.replicate 256 0) = 0 := by
  refine List.sum_eq_zero fun n hn => ?_
  obtain ⟨sym, -, rfl⟩ := List.mem_map.1 hn
  exact congrArg BitVec.toNat (entry_replicate 0 sym)

/-! ### COUNT -/

/-- A command that runs answers what its pseudocode ends with over the source. -/
theorem exec_of_canRun {i : Instr} {s : State} {S : List Byte} (hrun : CanRun i s) (hS : SourceIs s S) :
    exec i s = completeRun (cmdInfo i) s (bodyOf i s S) := by
  rw [exec_eq_complete]
  exact complete_of_run hrun.1 hrun.2 hS.1

theorem SourceIs.length_lt {s : State} {S : List Byte} (h : SourceIs s S) : S.length < 2 ^ 32 :=
  h.2 ▸ s.srcLen.isLt

/-- `DISTINCT` after counting is the number of distinct bytes (10_state R34). -/
theorem State.distinct_of_freq_eq_countTable {t : State} {S : List Byte} (ht : t.freq = countTable S)
    (hS : S.length < 2 ^ 32) : t.distinct = S.dedup.length := by
  have hpresent : ∀ sym, entry t.freq sym ≠ 0 ↔ sym ∈ S := fun sym => by
    rw [ht, Ne, ← BitVec.toNat_inj, toNat_entry_countTable hS]
    exact List.count_eq_zero.not_left
  rw [t.distinct_eq_card, ← List.card_toFinset]
  congr 1
  ext sym
  simpa using hpresent sym

/-- Settles O25: the table written holds the numbers of occurrences, which the length of the source bounds. -/
theorem countResult : Obligations.CountResult := by
  intro s S hS hrun
  have h : exec .count s = .next ((s.setFreq (countTable S)).completeOk []) := exec_of_canRun hrun hS
  have hframe := exec_frame h
  exact ⟨_, h, toNat_entry_countTable hS.length_lt, State.distinct_of_freq_eq_countTable rfl hS.length_lt,
    ⟨rfl, rfl, rfl, rfl, rfl, rfl, rfl⟩, ⟨rfl, rfl⟩, ⟨rfl, rfl⟩, rfl, rfl, rfl, hframe.config, hframe.surroundings⟩

/-! ### The counts fit 32 bits -/

/-- The counts are as before, or they fit 32 bits. -/
def CountsStep (s t : State) : Prop := t.freq = s.freq ∨ CountsOk t

theorem CountsStep.countsOk {s t : State} (h : CountsStep s t) (hs : CountsOk s) : CountsOk t := by
  rcases h with h | h
  · rwa [CountsOk, h]
  · exact h

theorem countsOk_of_cleared {t : State} (h : t.freq = Vector.replicate 256 0) : CountsOk t := by
  rw [CountsOk, h, totalCount_replicate]
  exact Nat.zero_le _

theorem countsOk_of_countTable {t : State} {S : List Byte} (h : t.freq = countTable S) (hS : S.length < 2 ^ 32) :
    CountsOk t := by
  rw [CountsOk, h]
  have := totalCount_countTable_le S
  omega

/-- COUNT and COMPRESS write the counts of the source; no other command writes `FREQ`. -/
theorem bodyOf_freq {i : Instr} {s s' : State} {S out : List Byte} (h : bodyOf i s S = .ok (s', out)) :
    s'.freq = s.freq ∨ (cmdInfo i).readsSrc = true ∧ s'.freq = countTable S := by
  cases hw : (cmdInfo i).writesFreq with
  | false => exact .inl ((bodyOf_ok h).freq hw)
  | true =>
    rw [cmdInfo_writesFreq_iff, List.mem_cons, List.mem_singleton] at hw
    rcases hw with rfl | rfl
    · rw [bodyOf, compressBody, Run.bind_eq_ok] at h
      obtain ⟨⟨u, o⟩, hrun, hout⟩ := h
      obtain ⟨rfl, -, -⟩ := boundedOutput_ok hout
      refine .inr ⟨rfl, ?_⟩
      unfold compressRun at hrun
      split at hrun
      · cases hrun
        rfl
      · simp only [compressData, Run.bind_eq_ok] at hrun
        obtain ⟨tree, -, ct, -, T, -, hend⟩ := hrun
        cases hend
        rfl
    · cases h
      exact .inr ⟨rfl, rfl⟩

/-- A command in flight counts its source region at most (20_memory R73). -/
theorem exec_counts {i : Instr} {s t : State} (hs : LifecycleOk s) (hi : s.inFlight = some i)
    (h : exec i s = .next t) : CountsStep s t := by
  rcases exec_next_cases h with ⟨code, -, rfl⟩ | ⟨-, -, code, pos, -, -, rfl⟩ | ⟨-, -, s', out, hb, -, rfl⟩
  · exact .inl rfl
  · cases hw : (cmdInfo i).writesFreq with
    | false => exact .inl (by simp [State.completeError, hw])
    | true => exact .inr (countsOk_of_cleared (by simp [State.completeError, hw]))
  · rcases bodyOf_freq hb with hsame | ⟨hreads, hcount⟩
    · exact .inl hsame
    · obtain ⟨-, -, -, -, j, S, hj, hsnap, hsrc⟩ := hs.1 (State.inFlight_eq_some hi).1
      obtain rfl : i = j := Option.some_inj.1 (hi.symm.trans hj)
      rw [hsnap, Option.getD_some, hsrc hreads] at hcount
      exact .inr (countsOk_of_countTable hcount (s.source_length_le.trans_lt s.srcLen.isLt))

theorem State.coreReset_counts (s : State) : CountsStep s s.coreReset :=
  .inr (countsOk_of_cleared (by rw [s.coreReset_eq]; rfl))

theorem hostMove_counts {op : HostOp} {s t : State} (h : hostMove op s = .next t) : CountsStep s t := by
  rcases hostMove_next_cases h with ⟨prog, log, n, rfl⟩ | ⟨c, v, -, rfl⟩ | ⟨a, b, -, -, rfl⟩ | ⟨-, rfl⟩
  · exact .inl rfl
  · rcases s.csrWrite_kinds c v with ⟨-, he⟩ | ⟨-, he⟩ | hset
    · rw [he]; exact s.coreReset_counts
    · rw [he]
      rcases s.accept_cases v with ⟨-, he⟩ | ⟨-, -, he⟩ | ⟨-, -, he⟩ <;> exact .inl (by rw [he])
    · exact .inl (by rw [hset.eq])
  · exact .inl rfl
  · exact s.coreReset_counts

/-- Settles O59: the counts written are those of a source region, which is shorter than 2^32 bytes. -/
theorem stepKeepsCounts : Obligations.StepKeepsCounts := by
  intro s t hs hc h
  obtain ⟨s0, h0, hstep⟩ := step_next_cases h
  have hs0 : CountsOk s0 := by
    obtain ⟨ag, prog, rfl⟩ := h0
    exact hc
  rcases hstep with rfl | ⟨op, hop⟩ | ⟨i, hi, he⟩
  · exact hs0
  · exact (hostMove_counts hop).countsOk hs0
  · exact (exec_counts (hs.turnTaken h0) hi he).countsOk hs0

end Sys2Proof.Machine

/-! ## The merge loop of BUILD (40_count_build R111, R112)

What holds when the loop ends is an invariant of its turns (`mergeLoop_induction`). `MergeInv` says what the nodes and
the queue are between two turns; BUILD's result is read off it. -/

namespace Sys2Proof.Machine

/-! ### The priority order -/

theorem QueueItem.before_iff {x y : QueueItem} :
    x.before y = true ↔ x.weight < y.weight ∨ (x.weight = y.weight ∧ x.index ≤ y.index) := by
  simp [QueueItem.before]

theorem QueueItem.before_refl (x : QueueItem) : x.before x = true :=
  QueueItem.before_iff.2 (.inr ⟨rfl, le_rfl⟩)

theorem QueueItem.before_trans {x y z : QueueItem} (hxy : x.before y = true) (hyz : y.before z = true) :
    x.before z = true := by
  rw [QueueItem.before_iff] at *
  omega

theorem QueueItem.before_of_not_before {x y : QueueItem} (h : ¬x.before y = true) : y.before x = true := by
  rw [QueueItem.before_iff] at *
  omega

theorem QueueItem.weight_le_of_before {x y : QueueItem} (h : x.before y = true) : x.weight ≤ y.weight := by
  rw [QueueItem.before_iff] at h
  omega

/-- `PqMin` is before every element of the queue. -/
theorem pqMin_before (x : QueueItem) (q : List QueueItem) : ∀ z ∈ x :: q, (pqMin x q).before z = true := by
  induction q generalizing x with
  | nil => simp [pqMin, QueueItem.before_refl]
  | cons y q ih =>
    intro z hz
    rw [pqMin]
    split
    case isTrue hxy =>
      have hx := ih x x List.mem_cons_self
      rcases List.mem_cons.1 hz with rfl | hz
      · exact hx
      rcases List.mem_cons.1 hz with rfl | hz
      · exact QueueItem.before_trans hx hxy
      · exact ih x z (List.mem_cons_of_mem _ hz)
    case isFalse hxy =>
      rcases List.mem_cons.1 hz with rfl | hz
      · exact QueueItem.before_trans (ih y y List.mem_cons_self) (QueueItem.before_of_not_before hxy)
      · exact ih y z hz

/-! ### The turns of the loop -/

/-- The parent a turn makes of the two nodes it takes. -/
def mergedNode (a b : QueueItem) : Node :=
  .internal (BitVec.ofNat 32 (a.weight + b.weight)) (BitVec.ofNat 9 a.index) (BitVec.ofNat 9 b.index)

/-- `a` is the least element of the queue, `b` the least of the others, `rest` what is left (40_count_build R112). -/
structure TakesTwoLeast (q : List QueueItem) (a b : QueueItem) (rest : List QueueItem) : Prop where
  perm : q.Perm (a :: b :: rest)
  first : ∀ z ∈ b :: rest, a.before z = true
  second : ∀ z ∈ rest, b.before z = true

/-- A turn of the merge loop takes the two least elements of the queue and puts their parent's in. -/
theorem mergeLoop_takesTwoLeast (fuel : Nat) (nodes : List Node) (x y : QueueItem) (rest : List QueueItem) :
    ∃ a b q, TakesTwoLeast (x :: y :: rest) a b q ∧
      mergeLoop (fuel + 1) nodes (x :: y :: rest) =
        mergeLoop fuel (nodes ++ [mergedNode a b]) (q ++ [⟨a.weight + b.weight, nodes.length⟩]) := by
  have ha : (x :: y :: rest).Perm (pqMin x (y :: rest) :: (x :: y :: rest).erase (pqMin x (y :: rest))) :=
    List.perm_cons_erase (pqMin_mem _ _)
  cases hq : (x :: y :: rest).erase (pqMin x (y :: rest)) with
  | nil => simpa [hq] using ha.length_eq
  | cons z zs =>
    rw [hq] at ha
    have hb : (z :: zs).Perm (pqMin z zs :: (z :: zs).erase (pqMin z zs)) := List.perm_cons_erase (pqMin_mem _ _)
    refine ⟨pqMin x (y :: rest), pqMin z zs, (z :: zs).erase (pqMin z zs), ⟨ha.trans (hb.cons _), ?_, ?_⟩, ?_⟩
    · exact fun u hu => pqMin_before _ _ u (ha.mem_iff.2 (List.mem_cons_of_mem _ (hb.mem_iff.2 hu)))
    · exact fun u hu => pqMin_before _ _ u (List.mem_of_mem_erase hu)
    · simp only [mergeLoop, hq, mergedNode]

/-- What every turn keeps holds at the end, with one element left in the queue. -/
theorem mergeLoop_induction {P : List Node → List QueueItem → Prop}
    (hturn : ∀ {nodes q a b rest}, P nodes q → TakesTwoLeast q a b rest →
      P (nodes ++ [mergedNode a b]) (rest ++ [⟨a.weight + b.weight, nodes.length⟩]))
    {fuel : Nat} {nodes : List Node} {q : List QueueItem} (h : P nodes q) (hq : q ≠ [])
    (hfuel : q.length ≤ fuel + 1) : ∃ x, P (mergeLoop fuel nodes q) [x] := by
  induction fuel generalizing nodes q with
  | zero =>
    obtain ⟨x, rfl⟩ := List.length_eq_one_iff.1 (le_antisymm hfuel (List.length_pos_iff.2 hq))
    exact ⟨x, h⟩
  | succ fuel ih =>
    match q, hq with
    | [x], _ => exact ⟨x, by rwa [mergeLoop_singleton]⟩
    | x :: y :: rest, _ =>
      obtain ⟨a, b, q, htakes, hloop⟩ := mergeLoop_takesTwoLeast fuel nodes x y rest
      have hlen := htakes.perm.length_eq
      rw [hloop]
      refine ih (hturn h htakes) (by simp) ?_
      simp only [List.length_cons, List.length_append, List.length_nil] at hlen hfuel ⊢
      omega

theorem buildTree_eq_ok {f : FreqTable} (hne : initialLeaves f ≠ []) :
    ∃ nodes, nodes = mergeLoop (initialLeaves f).length (initialLeaves f) (initialQueue (initialLeaves f)) ∧
      buildTree f = .ok (nodes, BitVec.ofNat 9 (nodes.length - 1)) := by
  refine ⟨_, rfl, ?_⟩
  unfold buildTree
  split
  · rename_i hnil
    exact absurd hnil hne
  · rename_i leaf leaves hleaves
    rw [hleaves]

theorem buildTree_eq_error {f : FreqTable} (h : initialLeaves f = []) : buildTree f = raise .emptyFreq 0 := by
  simp [buildTree, h]

/-- What holds of the leaves and is kept by every turn holds of the arena built. -/
theorem buildTree_induction {f : FreqTable} {P : List Node → List QueueItem → Prop}
    (hstart : P (initialLeaves f) (initialQueue (initialLeaves f)))
    (hturn : ∀ {nodes q a b rest}, P nodes q → TakesTwoLeast q a b rest →
      P (nodes ++ [mergedNode a b]) (rest ++ [⟨a.weight + b.weight, nodes.length⟩]))
    {nodes : List Node} {root : NodeIndex} (h : buildTree f = .ok (nodes, root)) :
    root = BitVec.ofNat 9 (nodes.length - 1) ∧ ∃ x, P nodes [x] := by
  by_cases hne : initialLeaves f = []
  · rw [buildTree_eq_error hne] at h
    cases h
  · obtain ⟨nodes', hnodes, hbuild⟩ := buildTree_eq_ok hne
    rw [hbuild] at h
    cases h
    refine ⟨rfl, hnodes ▸ mergeLoop_induction hturn hstart ?_ ?_⟩
    · rwa [← List.length_pos_iff, initialQueue_length, List.length_pos_iff]
    · rw [initialQueue_length]
      exact Nat.le_succ _

/-! ### Nodes without a parent -/

/-- The weight of the node at an index. -/
def weightAt (nodes : List Node) (j : Nat) : Nat := ((nodes[j]?).map (fun n => n.weight.toNat)).getD 0

/-- `j` is one of the first `k` nodes, and none of those has it as a child. -/
def Parentless (nodes : List Node) (k j : Nat) : Prop := j < k ∧ ∀ n ∈ nodes.take k, n.hasChild j = false

/-- The priority order of two nodes of an arena (40_count_build R112). -/
def NodeBefore (nodes : List Node) (i j : Nat) : Prop :=
  weightAt nodes i < weightAt nodes j ∨ (weightAt nodes i = weightAt nodes j ∧ i ≤ j)

/-- Node `k`, of weight `w` and children `a` and `b`, is the merge of the two least nodes that had no parent before it
(40_count_build R111, R112). -/
structure MergedAt (nodes : List Node) (k : Nat) (w : Word) (a b : NodeIndex) : Prop where
  left : Parentless nodes k a.toNat
  right : Parentless nodes k b.toNat
  ne : b ≠ a
  weight : w.toNat = weightAt nodes a.toNat + weightAt nodes b.toNat
  leftLeast : ∀ j, Parentless nodes k j → NodeBefore nodes a.toNat j
  rightLeast : ∀ j, Parentless nodes k j → j ≠ a.toNat → NodeBefore nodes b.toNat j

theorem weightAt_append {nodes : List Node} {j : Nat} (hj : j < nodes.length) (more : List Node) :
    weightAt (nodes ++ more) j = weightAt nodes j := by
  rw [weightAt, List.getElem?_append_left hj, weightAt]

theorem weightAt_concat_length (nodes : List Node) (n : Node) :
    weightAt (nodes ++ [n]) nodes.length = n.weight.toNat := by
  simp [weightAt]

theorem weightAt_of_getElem? {nodes : List Node} {j : Nat} {n : Node} (h : nodes[j]? = some n) :
    weightAt nodes j = n.weight.toNat := by
  simp [weightAt, h]

theorem exists_node_weightAt {nodes : List Node} {j : Nat} (hj : j < nodes.length) :
    ∃ n, nodes[j]? = some n ∧ n.weight.toNat = weightAt nodes j :=
  ⟨nodes[j], List.getElem?_eq_getElem hj, (weightAt_of_getElem? (List.getElem?_eq_getElem hj)).symm⟩

theorem parentless_append {nodes : List Node} {k : Nat} (hk : k ≤ nodes.length) (more : List Node) {j : Nat} :
    Parentless (nodes ++ more) k j ↔ Parentless nodes k j := by
  rw [Parentless, List.take_append_of_le_length hk, Parentless]

theorem parentless_length {nodes : List Node} {j : Nat} :
    Parentless nodes nodes.length j ↔ j < nodes.length ∧ ∀ n ∈ nodes, n.hasChild j = false := by
  rw [Parentless, List.take_length]

theorem nodeBefore_append {nodes : List Node} {i j : Nat} (hi : i < nodes.length) (hj : j < nodes.length)
    (more : List Node) : NodeBefore (nodes ++ more) i j ↔ NodeBefore nodes i j := by
  rw [NodeBefore, weightAt_append hi, weightAt_append hj, NodeBefore]

theorem MergedAt.append {nodes : List Node} {k : Nat} {w : Word} {a b : NodeIndex} (h : MergedAt nodes k w a b)
    (hk : k ≤ nodes.length) (more : List Node) : MergedAt (nodes ++ more) k w a b := by
  have hlt : ∀ {j}, Parentless nodes k j → j < nodes.length := fun hj => hj.1.trans_le hk
  refine ⟨(parentless_append hk more).2 h.left, (parentless_append hk more).2 h.right, h.ne, ?_, fun j hj => ?_,
    fun j hj hne => ?_⟩
  · rw [weightAt_append (hlt h.left), weightAt_append (hlt h.right), h.weight]
  · rw [parentless_append hk] at hj
    exact (nodeBefore_append (hlt h.left) (hlt hj) more).2 (h.leftLeast j hj)
  · rw [parentless_append hk] at hj
    exact (nodeBefore_append (hlt h.right) (hlt hj) more).2 (h.rightLeast j hj hne)

/-! ### The leaves -/

theorem initialLeaves_eq_map (f : FreqTable) :
    initialLeaves f = (presentSymbols f).map (fun sym => .leaf sym (entry f sym)) := by
  rw [initialLeaves, presentSymbols, ← List.filterMap_eq_map, List.filterMap_filter]
  refine List.filterMap_congr fun sym _ => ?_
  by_cases h : entry f sym = 0 <;> simp [h]

theorem initialLeaves_length (f : FreqTable) : (initialLeaves f).length = (presentSymbols f).length := by
  rw [initialLeaves_eq_map, List.length_map]

theorem initialLeaves_eq_nil_iff {f : FreqTable} : initialLeaves f = [] ↔ presentSymbols f = [] := by
  rw [initialLeaves_eq_map, List.map_eq_nil_iff]

/-- The symbols that are not present add nothing to the sum of the counts. -/
theorem totalCount_eq_sum_presentSymbols (f : FreqTable) :
    totalCount f = ((presentSymbols f).map (fun sym => (entry f sym).toNat)).sum := by
  have habsent : ∀ syms : List Byte, (syms.map (fun sym => (entry f sym).toNat)).sum =
      ((syms.filter (fun sym => entry f sym != 0)).map (fun sym => (entry f sym).toNat)).sum := by
    intro syms
    induction syms with
    | nil => rfl
    | cons sym syms ih =>
      by_cases h : entry f sym = 0#32 <;> simp [h, ih]
  exact habsent symbols

theorem initialQueue_map_weight (leaves : List Node) :
    (initialQueue leaves).map QueueItem.weight = leaves.map (fun n => n.weight.toNat) := by
  rw [initialQueue, List.map_map]
  conv_rhs => rw [← List.zipIdx_map_fst 0 leaves, List.map_map]
  rfl

theorem weightAt_of_mem_initialQueue {leaves : List Node} {x : QueueItem} (hx : x ∈ initialQueue leaves) :
    weightAt leaves x.index = x.weight := by
  obtain ⟨⟨n, i⟩, hmem, rfl⟩ := List.mem_map.1 hx
  exact weightAt_of_getElem? (List.mem_zipIdx_iff_getElem?.1 hmem)

/-! ### The invariant -/

/-- Between two turns: the leaves and the parents made, each the merge of the two least; the queue holds the nodes
without a parent, each once, with its weight. -/
structure MergeInv (f : FreqTable) (nodes : List Node) (q : List QueueItem) : Prop where
  inner : ∃ inner, nodes = initialLeaves f ++ inner ∧ ∀ n ∈ inner, n.isLeaf = false
  size : nodes.length + q.length = 2 * (initialLeaves f).length
  weight : ∀ x ∈ q, weightAt nodes x.index = x.weight
  sum : (q.map QueueItem.weight).sum = totalCount f
  nodup : (q.map QueueItem.index).Nodup
  mem_iff : ∀ j, j ∈ q.map QueueItem.index ↔ Parentless nodes nodes.length j
  merged : ∀ k w a b, nodes[k]? = some (.internal w a b) → MergedAt nodes k w a b

theorem mergeInv_start (f : FreqTable) : MergeInv f (initialLeaves f) (initialQueue (initialLeaves f)) where
  inner := ⟨[], (List.append_nil _).symm, by simp⟩
  size := by rw [initialQueue_length]; omega
  weight _ hx := weightAt_of_mem_initialQueue hx
  sum := by
    rw [initialQueue_map_weight, totalCount_eq_sum_presentSymbols, initialLeaves_eq_map, List.map_map]
    rfl
  nodup := by rw [initialQueue_map_index]; exact List.nodup_range
  mem_iff j := by
    rw [initialQueue_map_index, List.mem_range, parentless_length, iff_self_and]
    intro _ n hn
    obtain ⟨sym, w, rfl⟩ := isLeaf_of_mem_initialLeaves hn
    rfl
  merged k w a b hk := by
    obtain ⟨sym, w', h⟩ := isLeaf_of_mem_initialLeaves (List.mem_of_getElem? hk)
    cases h

section
variable {f : FreqTable} {nodes : List Node} {q rest : List QueueItem} {a b : QueueItem}

theorem MergeInv.index_lt (h : MergeInv f nodes q) {x : QueueItem} (hx : x ∈ q) : x.index < nodes.length :=
  ((h.mem_iff _).1 (List.mem_map_of_mem hx)).1

/-- The indices fit 9 bits as long as two nodes are left to merge. -/
theorem MergeInv.length_lt (h : MergeInv f nodes q) (hq : 2 ≤ q.length) : nodes.length < 511 := by
  have := h.size
  have := initialLeaves_length_le f
  omega

/-- A node has children with smaller indices. -/
theorem MergeInv.child_lt (h : MergeInv f nodes q) {k j : Nat} {n : Node} (hk : nodes[k]? = some n)
    (hj : n.hasChild j = true) : j < k := by
  cases n with
  | leaf sym w => simp [Node.hasChild] at hj
  | internal w l r =>
    have hm := h.merged k w l r hk
    simp only [Node.hasChild, Bool.or_eq_true, beq_iff_eq] at hj
    rcases hj with rfl | rfl
    · exact hm.left.1
    · exact hm.right.1

theorem TakesTwoLeast.mem_left (ht : TakesTwoLeast q a b rest) : a ∈ q := ht.perm.mem_iff.2 (by simp)

theorem TakesTwoLeast.mem_right (ht : TakesTwoLeast q a b rest) : b ∈ q := ht.perm.mem_iff.2 (by simp)

theorem TakesTwoLeast.mem_rest (ht : TakesTwoLeast q a b rest) {x : QueueItem} (hx : x ∈ rest) : x ∈ q :=
  ht.perm.mem_iff.2 (by simp [hx])

theorem TakesTwoLeast.length_eq (ht : TakesTwoLeast q a b rest) : q.length = rest.length + 2 := ht.perm.length_eq

theorem TakesTwoLeast.sum_eq (ht : TakesTwoLeast q a b rest) :
    (q.map QueueItem.weight).sum = a.weight + b.weight + (rest.map QueueItem.weight).sum := by
  rw [(ht.perm.map _).sum_eq, List.map_cons, List.map_cons, List.sum_cons, List.sum_cons, add_assoc]

theorem MergeInv.nodup_taken (h : MergeInv f nodes q) (ht : TakesTwoLeast q a b rest) :
    (a.index :: b.index :: rest.map QueueItem.index).Nodup :=
  (ht.perm.map QueueItem.index).nodup_iff.1 h.nodup

/-- The words of a new parent hold its numbers. -/
theorem MergeInv.toNat_mergedNode (h : MergeInv f nodes q) (hf : totalCount f ≤ 0xFFFFFFFF)
    (ht : TakesTwoLeast q a b rest) :
    (BitVec.ofNat 32 (a.weight + b.weight)).toNat = a.weight + b.weight ∧
      (BitVec.ofNat 9 a.index).toNat = a.index ∧ (BitVec.ofNat 9 b.index).toNat = b.index := by
  have hlen := h.length_lt (ht.length_eq ▸ Nat.le_add_left 2 _)
  have ha := h.index_lt ht.mem_left
  have hb := h.index_lt ht.mem_right
  have hsum := h.sum
  rw [ht.sum_eq] at hsum
  refine ⟨?_, ?_, ?_⟩ <;> rw [BitVec.toNat_ofNat, Nat.mod_eq_of_lt (by omega)]

theorem MergeInv.hasChild_mergedNode (h : MergeInv f nodes q) (hf : totalCount f ≤ 0xFFFFFFFF)
    (ht : TakesTwoLeast q a b rest) (j : Nat) :
    (mergedNode a b).hasChild j = true ↔ a.index = j ∨ b.index = j := by
  obtain ⟨-, ha, hb⟩ := h.toNat_mergedNode hf ht
  simp [mergedNode, Node.hasChild, ha, hb]

/-- The new parent is the merge of the two least nodes without a parent. -/
theorem MergeInv.mergedAt_mergedNode (h : MergeInv f nodes q) (hf : totalCount f ≤ 0xFFFFFFFF)
    (ht : TakesTwoLeast q a b rest) :
    MergedAt nodes nodes.length (BitVec.ofNat 32 (a.weight + b.weight)) (BitVec.ofNat 9 a.index)
      (BitVec.ofNat 9 b.index) := by
  obtain ⟨hw, ha, hb⟩ := h.toNat_mergedNode hf ht
  have hnodup := h.nodup_taken ht
  have before_of : ∀ {x y : QueueItem}, x ∈ q → y ∈ q → x.before y = true → NodeBefore nodes x.index y.index := by
    intro x y hx hy hxy
    rw [NodeBefore, h.weight x hx, h.weight y hy]
    exact QueueItem.before_iff.1 hxy
  refine ⟨?_, ?_, fun heq => ?_, ?_, fun j hj => ?_, fun j hj hne => ?_⟩
  · rw [ha]
    exact (h.mem_iff _).1 (List.mem_map_of_mem ht.mem_left)
  · rw [hb]
    exact (h.mem_iff _).1 (List.mem_map_of_mem ht.mem_right)
  · have hab : b.index = a.index := by rw [← ha, ← hb, heq]
    simp [hab] at hnodup
  · rw [hw, ha, hb, h.weight a ht.mem_left, h.weight b ht.mem_right]
  · obtain ⟨x, hx, rfl⟩ := List.mem_map.1 ((h.mem_iff j).2 hj)
    rw [ha]
    refine before_of ht.mem_left hx ?_
    rcases List.mem_cons.1 (ht.perm.mem_iff.1 hx) with rfl | hx
    · exact x.before_refl
    · exact ht.first x hx
  · obtain ⟨x, hx, rfl⟩ := List.mem_map.1 ((h.mem_iff j).2 hj)
    rw [hb]
    refine before_of ht.mem_right hx ?_
    rcases List.mem_cons.1 (ht.perm.mem_iff.1 hx) with rfl | hx
    · exact absurd ha.symm hne
    rcases List.mem_cons.1 hx with rfl | hx
    · exact x.before_refl
    · exact ht.second x hx

/-- After a turn the nodes without a parent are those left in the queue and the new one. -/
theorem MergeInv.mem_iff_merge (h : MergeInv f nodes q) (hf : totalCount f ≤ 0xFFFFFFFF)
    (ht : TakesTwoLeast q a b rest) (j : Nat) :
    j ∈ rest.map QueueItem.index ++ [nodes.length] ↔
      Parentless (nodes ++ [mergedNode a b]) (nodes ++ [mergedNode a b]).length j := by
  have hnodup := h.nodup_taken ht
  have hq : j ∈ q.map QueueItem.index ↔ j = a.index ∨ j = b.index ∨ j ∈ rest.map QueueItem.index := by
    rw [(ht.perm.map _).mem_iff, List.map_cons, List.map_cons, List.mem_cons, List.mem_cons]
  have hold := h.mem_iff j
  have hchild := h.hasChild_mergedNode hf ht j
  rw [parentless_length] at hold ⊢
  have ha := h.index_lt ht.mem_left
  have hb := h.index_lt ht.mem_right
  simp only [List.nodup_cons, List.mem_cons, not_or] at hnodup
  obtain ⟨⟨hab, har⟩, hbr, -⟩ := hnodup
  simp only [List.mem_append, List.mem_singleton, List.length_append, List.length_singleton]
  constructor
  · rintro (hj | rfl)
    · obtain ⟨hlt, hnone⟩ := hold.1 (hq.2 (.inr (.inr hj)))
      refine ⟨by omega, ?_⟩
      rintro n (hn | rfl)
      · exact hnone n hn
      · rw [← Bool.not_eq_true, hchild]
        rintro (rfl | rfl)
        · exact har hj
        · exact hbr hj
    · refine ⟨by omega, ?_⟩
      rintro n (hn | rfl) <;> rw [← Bool.not_eq_true]
      · intro hc
        obtain ⟨k, hk⟩ := List.mem_iff_getElem?.1 hn
        have := h.child_lt hk hc
        have := (List.getElem?_eq_some_iff.1 hk).1
        omega
      · rw [hchild]
        omega
  · rintro ⟨hlt, hnone⟩
    rcases Nat.lt_succ_iff_lt_or_eq.1 hlt with hlt | rfl
    · have hnew : ¬(a.index = j ∨ b.index = j) := by
        rw [← hchild, Bool.not_eq_true]
        exact hnone _ (.inr rfl)
      rcases hq.1 (hold.2 ⟨hlt, fun n hn => hnone n (.inl hn)⟩) with hj | hj | hj
      · exact absurd (.inl hj.symm) hnew
      · exact absurd (.inr hj.symm) hnew
      · exact .inl hj
    · exact .inr rfl

/-- A turn keeps the invariant. -/
theorem MergeInv.merge (h : MergeInv f nodes q) (hf : totalCount f ≤ 0xFFFFFFFF) (ht : TakesTwoLeast q a b rest) :
    MergeInv f (nodes ++ [mergedNode a b]) (rest ++ [⟨a.weight + b.weight, nodes.length⟩]) where
  inner := by
    obtain ⟨inner, rfl, hinner⟩ := h.inner
    refine ⟨inner ++ [mergedNode a b], by simp, fun n hn => ?_⟩
    rcases List.mem_append.1 hn with hn | hn
    · exact hinner n hn
    · rw [List.mem_singleton.1 hn]
      rfl
  size := by
    have := h.size
    have := ht.length_eq
    simp only [List.length_append, List.length_singleton]
    omega
  weight x hx := by
    rcases List.mem_append.1 hx with hx | hx
    · rw [weightAt_append (h.index_lt (ht.mem_rest hx)), h.weight x (ht.mem_rest hx)]
    · rw [List.mem_singleton.1 hx]
      exact (weightAt_concat_length _ _).trans (h.toNat_mergedNode hf ht).1
  sum := by
    have hsum := h.sum
    rw [ht.sum_eq] at hsum
    simp only [List.map_append, List.sum_append, List.map_singleton, List.sum_singleton]
    omega
  nodup := by
    rw [List.map_append, List.nodup_append]
    refine ⟨(h.nodup_taken ht).of_cons.of_cons, List.nodup_singleton _, fun i hi j hj => ?_⟩
    obtain ⟨x, hx, rfl⟩ := List.mem_map.1 hi
    obtain rfl : j = nodes.length := by simpa using hj
    exact (h.index_lt (ht.mem_rest hx)).ne
  mem_iff j := by
    rw [List.map_append]
    exact h.mem_iff_merge hf ht j
  merged k w l r hk := by
    rcases Nat.lt_or_ge k nodes.length with hlt | hge
    · rw [List.getElem?_append_left hlt] at hk
      exact (h.merged k w l r hk).append hlt.le _
    · rw [List.getElem?_append_right hge, List.getElem?_singleton] at hk
      split at hk
      · obtain rfl : k = nodes.length := by omega
        cases hk
        exact (h.mergedAt_mergedNode hf ht).append le_rfl _
      · cases hk

/-- The arena built and the one element left in the queue. -/
theorem buildTree_mergeInv {root : NodeIndex} (hf : totalCount f ≤ 0xFFFFFFFF)
    (h : buildTree f = .ok (nodes, root)) : root = BitVec.ofNat 9 (nodes.length - 1) ∧ ∃ x, MergeInv f nodes [x] :=
  buildTree_induction (mergeInv_start f) (fun hinv ht => hinv.merge hf ht) h

end

end Sys2Proof.Machine

/-! ## The arena BUILD writes (40_count_build R111, R112) -/

namespace Sys2Proof.Machine

section
variable {f : FreqTable} {nodes : List Node} {root : NodeIndex}

theorem buildTree_length_le (h : buildTree f = .ok (nodes, root)) : nodes.length ≤ 511 := (buildTree_spans h).2

theorem buildTree_ne_nil (h : buildTree f = .ok (nodes, root)) : nodes ≠ [] := (buildTree_arenaOk h).2

theorem buildTree_mergedAt (hf : totalCount f ≤ 0xFFFFFFFF) (h : buildTree f = .ok (nodes, root)) {k : Nat} {w : Word}
    {a b : NodeIndex} (hk : nodes[k]? = some (.internal w a b)) : MergedAt nodes k w a b := by
  obtain ⟨-, x, hinv⟩ := buildTree_mergeInv hf h
  exact hinv.merged k w a b hk

theorem buildTree_length (hf : totalCount f ≤ 0xFFFFFFFF) (h : buildTree f = .ok (nodes, root)) :
    nodes.length = 2 * (presentSymbols f).length - 1 := by
  obtain ⟨-, x, hinv⟩ := buildTree_mergeInv hf h
  have hsize := hinv.size
  rw [initialLeaves_length, List.length_singleton] at hsize
  omega

/-- The leaves come first, in ascending symbol order; the nodes after them are internal. -/
theorem buildTree_leaves (hf : totalCount f ≤ 0xFFFFFFFF) (h : buildTree f = .ok (nodes, root)) :
    ∃ inner, nodes = (presentSymbols f).map (fun sym => .leaf sym (entry f sym)) ++ inner ∧
      ∀ n ∈ inner, n.isLeaf = false := by
  obtain ⟨-, x, hinv⟩ := buildTree_mergeInv hf h
  rw [← initialLeaves_eq_map]
  exact hinv.inner

theorem buildTree_leafCount (hf : totalCount f ≤ 0xFFFFFFFF) (h : buildTree f = .ok (nodes, root)) :
    leafCount nodes = (presentSymbols f).length := by
  obtain ⟨inner, rfl, hinner⟩ := buildTree_leaves hf h
  have hzero : inner.countP Node.isLeaf = 0 := List.countP_eq_zero.2 fun n hn => by simp [hinner n hn]
  have hall : ((presentSymbols f).map (fun sym => Node.leaf sym (entry f sym))).countP Node.isLeaf =
      ((presentSymbols f).map (fun sym => Node.leaf sym (entry f sym))).length :=
    List.countP_eq_length.2 fun n hn => by
      obtain ⟨sym, -, rfl⟩ := List.mem_map.1 hn
      rfl
  rw [leafCount, List.countP_append, hzero, hall, List.length_map, add_zero]

theorem buildTree_root (hf : totalCount f ≤ 0xFFFFFFFF) (h : buildTree f = .ok (nodes, root)) :
    root.toNat = nodes.length - 1 := by
  have := buildTree_length_le h
  rw [(buildTree_mergeInv hf h).1, BitVec.toNat_ofNat, Nat.mod_eq_of_lt (by omega)]

/-- The root is the node left in the queue, so it weighs as much as all leaves together. -/
theorem buildTree_weightAt_root (hf : totalCount f ≤ 0xFFFFFFFF) (h : buildTree f = .ok (nodes, root)) :
    weightAt nodes root.toNat = totalCount f := by
  obtain ⟨-, x, hinv⟩ := buildTree_mergeInv hf h
  obtain ⟨t, ht⟩ := (buildTree_spans h).1
  have hparentless : Parentless nodes nodes.length root.toNat := by
    refine parentless_length.2 ⟨ht.index ▸ ht.mem_indices.1 t.index_mem_indices, fun n hn => ?_⟩
    obtain ⟨k, hk⟩ := List.mem_iff_getElem?.1 hn
    exact ht.root_no_child hk
  have hx : root.toNat = x.index := by simpa using (hinv.mem_iff _).2 hparentless
  have hsum : x.weight = totalCount f := by simpa using hinv.sum
  rw [hx, hinv.weight x (List.mem_singleton_self x), hsum]

end

/-! ### BUILD -/

/-- BUILD has no region to check. -/
theorem exec_build_eq (s : State) :
    exec .build s = completeRun (cmdInfo .build) s (buildBody s (s.snap.getD [])) :=
  exec_eq_completeRun (by simp [startCheck, cmdInfo]) (by simp [platformCheck, activeRegions, cmdInfo])

theorem exec_build_of_ok {s : State} {nodes : List Node} {root : NodeIndex} (h : buildTree s.freq = .ok (nodes, root)) :
    exec .build s = .next (((s.setTree nodes root).clearCT).completeOk []) := by
  rw [exec_build_eq, buildBody, h]
  rfl

theorem exec_build_of_no_symbol {s : State} (h : presentSymbols s.freq = []) :
    exec .build s = .next (s.completeError (cmdInfo .build) .emptyFreq 0) := by
  rw [exec_build_eq, buildBody, buildTree_eq_error (initialLeaves_eq_nil_iff.2 h)]
  rfl

theorem exists_buildTree_eq_ok {f : FreqTable} (h : presentSymbols f ≠ []) :
    ∃ nodes root, buildTree f = .ok (nodes, root) := by
  obtain ⟨nodes, -, hbuild⟩ := buildTree_eq_ok (mt initialLeaves_eq_nil_iff.1 h)
  exact ⟨nodes, _, hbuild⟩

/-- The arena after BUILD is empty or the one built of the counts. -/
theorem exec_build_nodes {s t : State} (h : exec .build s = .next t) :
    t.nodes = [] ∨ buildTree s.freq = .ok (t.nodes, t.root) := by
  by_cases hp : presentSymbols s.freq = []
  · rw [exec_build_of_no_symbol hp] at h
    cases h
    exact .inl rfl
  · obtain ⟨nodes, root, hbuild⟩ := exists_buildTree_eq_ok hp
    rw [exec_build_of_ok hbuild] at h
    cases h
    exact .inr hbuild

/-- Settles O26: what the merge loop keeps, read at its end; with no symbol present the error's effects. -/
theorem buildResult : Obligations.BuildResult := by
  constructor
  · intro s hp hf
    obtain ⟨nodes, root, hbuild⟩ := exists_buildTree_eq_ok hp
    have hexec := exec_build_of_ok hbuild
    have hframe := exec_frame hexec
    have hroot := buildTree_root hf hbuild
    refine ⟨_, hexec, buildTree_length hf hbuild, ?leaves, ?children, buildTree_leafCount hf hbuild, hroot, ?weight,
      (buildTree_arenaOk hbuild).1, codeTableCleared_of_eq rfl rfl, ⟨rfl, rfl, rfl, rfl, rfl, rfl, rfl⟩, rfl, rfl, rfl,
      rfl, hframe.config, hframe.surroundings⟩
    case leaves =>
      obtain ⟨inner, hnodes, -⟩ := buildTree_leaves hf hbuild
      change nodes.take _ = _
      rw [hnodes, List.take_left' (List.length_map _)]
    case children =>
      intro k w l r hk
      have hm := buildTree_mergedAt hf hbuild hk
      have hlt : k < nodes.length := (List.getElem?_eq_some_iff.1 hk).1
      obtain ⟨a, ha, hwa⟩ := exists_node_weightAt (hm.left.1.trans hlt)
      obtain ⟨b, hb, hwb⟩ := exists_node_weightAt (hm.right.1.trans hlt)
      exact ⟨a, b, ha, hb, hm.left.1, hm.right.1, by rw [hwa, hwb, hm.weight]⟩
    case weight =>
      have hpos := List.length_pos_iff.2 (buildTree_ne_nil hbuild)
      have hlt : root.toNat < nodes.length := by omega
      rw [← buildTree_weightAt_root hf hbuild]
      exact exists_node_weightAt hlt
  · intro s hzero
    have hp : presentSymbols s.freq = [] := List.filter_eq_nil_iff.2 fun sym _ => by simp [hzero sym]
    have hexec := exec_build_of_no_symbol hp
    have hframe := exec_frame hexec
    exact ⟨_, hexec, ⟨rfl, rfl, rfl, rfl, rfl, rfl, rfl⟩, ⟨rfl, rfl⟩, codeTableCleared_of_eq rfl rfl, rfl, rfl, rfl,
      hframe.config, hframe.surroundings⟩

/-- Settles O27: an internal node of the arena built is the merge of the two least nodes. -/
theorem mergeTakesTheTwoLeast : Obligations.MergeTakesTheTwoLeast := by
  intro s t hf h k w a b hk
  rcases exec_build_nodes h with hnil | hbuild
  · simp [hnil] at hk
  · obtain ⟨hleft, hright, hne, -, hleftLeast, hrightLeast⟩ := buildTree_mergedAt hf hbuild hk
    exact ⟨hleft, hleftLeast, hright, hne, hrightLeast⟩

end Sys2Proof.Machine

/-! ## Codes by their lengths

A code no word of which begins another is bounded below through its lengths alone: they meet Kraft's inequality, and
lengths that meet it can be rearranged so that the two least weights are merged (`exists_mergedLengths`). -/

namespace Sys2Proof.Machine

/-! ### Kraft's inequality -/

/-- Kraft's inequality for the lengths of a binary code, in multiples of `2⁻ᵐ`. -/
def Kraft (lengths : List Nat) : Prop :=
  ∃ m, (∀ l ∈ lengths, l ≤ m) ∧ (lengths.map (fun l => 2 ^ (m - l))).sum ≤ 2 ^ m

theorem Kraft.perm {ls ls' : List Nat} (h : Kraft ls) (hp : ls.Perm ls') : Kraft ls' := by
  obtain ⟨m, hle, hsum⟩ := h
  refine ⟨m, fun l hl => hle l (hp.mem_iff.2 hl), ?_⟩
  rwa [← (hp.map fun l => 2 ^ (m - l)).sum_eq]

/-- A longest length can be dropped and a next longest made one shorter. -/
theorem Kraft.merge {l m : Nat} {ls : List Nat} (h : Kraft (l :: m :: ls)) (hml : m ≤ l) (hle : ∀ x ∈ ls, x ≤ m) :
    1 ≤ m ∧ Kraft (ls ++ [m - 1]) := by
  obtain ⟨M, hM, hsum⟩ := h
  have hmM : m ≤ M := hM m (by simp)
  have hscale : (ls.map (fun x => 2 ^ (M - x))).sum = 2 ^ (M - m) * (ls.map (fun x => 2 ^ (m - x))).sum := by
    rw [← List.sum_map_mul_left]
    refine congrArg (List.sum (α := Nat)) (List.map_congr_left fun x hx => ?_)
    have := hle x hx
    rw [← pow_add]
    congr 1
    omega
  have hpow : 2 ^ M = 2 ^ (M - m) * 2 ^ m := by rw [← pow_add, Nat.sub_add_cancel hmM]
  have hlt : 1 + (ls.map (fun x => 2 ^ (m - x))).sum < 2 ^ m := by
    refine Nat.lt_of_mul_lt_mul_left (a := 2 ^ (M - m)) ?_
    have hpos : 0 < 2 ^ (M - l) := by positivity
    rw [List.map_cons, List.map_cons, List.sum_cons, List.sum_cons, hscale] at hsum
    rw [← hpow, mul_add, mul_one]
    omega
  have hm : 1 ≤ m := by
    rcases Nat.eq_zero_or_pos m with rfl | hpos
    · omega
    · exact hpos
  refine ⟨hm, m, fun x hx => ?_, ?_⟩
  · rcases List.mem_append.1 hx with hx | hx
    · exact hle x hx
    · rw [List.mem_singleton.1 hx]
      omega
  · rw [List.map_append, List.sum_append, List.map_singleton, List.sum_singleton, Nat.sub_sub_self hm]
    omega

/-- A code no word of which begins another is uniquely decodable. -/
theorem uniquelyDecodable_of_prefixFree {S : Set Bits} (hnil : [] ∉ S)
    (hfree : ∀ x ∈ S, ∀ y ∈ S, x <+: y → x = y) : InformationTheory.UniquelyDecodable S := by
  have flatten_ne : ∀ (w : Bits) (L : List Bits), w ∈ S → (w :: L).flatten ≠ [] := by
    rintro w L hw h
    rw [List.flatten_cons, List.append_eq_nil_iff] at h
    exact hnil (h.1 ▸ hw)
  intro L₁
  induction L₁ with
  | nil =>
    rintro (_ | ⟨v, L₂⟩) - h₂ h
    · rfl
    · exact absurd h.symm (flatten_ne v L₂ (h₂ v List.mem_cons_self))
  | cons w L₁ ih =>
    rintro (_ | ⟨v, L₂⟩) h₁ h₂ h
    · exact absurd h (flatten_ne w L₁ (h₁ w List.mem_cons_self))
    · have hw := h₁ w List.mem_cons_self
      have hv := h₂ v List.mem_cons_self
      rw [List.flatten_cons, List.flatten_cons] at h
      obtain rfl : w = v := by
        rcases List.prefix_or_prefix_of_prefix (List.prefix_append w L₁.flatten)
          (h ▸ List.prefix_append v L₂.flatten) with hp | hp
        · exact hfree w hw v hv hp
        · exact (hfree v hv w hw hp).symm
      rw [ih L₂ (fun u hu => h₁ u (List.mem_cons_of_mem _ hu)) (fun u hu => h₂ u (List.mem_cons_of_mem _ hu))
        (List.append_cancel_left h)]

/-- The sum of Mathlib's inequality in multiples of `2⁻ᵐ`. -/
theorem sum_two_pow_sub_eq {m : Nat} {ls : List Nat} (hm : ∀ l ∈ ls, l ≤ m) :
    (((ls.map (fun l => 2 ^ (m - l))).sum : Nat) : ℝ) = 2 ^ m * (ls.map (fun l => (1 / 2 : ℝ) ^ l)).sum := by
  rw [Nat.cast_list_sum, List.map_map, ← List.sum_map_mul_left]
  refine congrArg List.sum (List.map_congr_left fun l hl => ?_)
  simp only [Function.comp, Nat.cast_pow, Nat.cast_ofNat, one_div, inv_pow]
  rw [pow_sub₀ _ two_ne_zero (hm l hl)]

/-- Where no word begins another, the lengths of a code of two or more symbols meet Kraft's inequality. -/
theorem kraft_of_prefixFree {syms : List Byte} {c : Byte → Bits} (hnodup : syms.Nodup) (hlen : 2 ≤ syms.length)
    (hfree : ∀ x ∈ syms, ∀ y ∈ syms, x ≠ y → ¬c x <+: c y) : Kraft (syms.map (fun sym => (c sym).length)) := by
  have hinj : ∀ x ∈ syms, ∀ y ∈ syms, c x = c y → x = y := fun x hx y hy hxy => by
    by_contra hne
    exact hfree x hx y hy hne (hxy ▸ List.prefix_rfl)
  have hdec : InformationTheory.UniquelyDecodable ((syms.map c).toFinset : Set Bits) := by
    refine uniquelyDecodable_of_prefixFree ?_ ?_
    · intro hnil
      obtain ⟨x, hx, hxnil⟩ : ∃ x ∈ syms, c x = [] := by simpa using hnil
      obtain ⟨y, hy, hne⟩ := syms.toFinset.exists_mem_ne (by rwa [List.toFinset_card_of_nodup hnodup]) x
      exact hfree x hx y (List.mem_toFinset.1 hy) hne.symm (hxnil ▸ List.nil_prefix)
    · intro u hu v hv huv
      obtain ⟨x, hx, rfl⟩ : ∃ x ∈ syms, c x = u := by simpa using hu
      obtain ⟨y, hy, rfl⟩ : ∃ y ∈ syms, c y = v := by simpa using hv
      by_contra hne
      exact hfree x hx y hy (fun hxy => hne (congrArg c hxy)) huv
  obtain ⟨m, hm⟩ := (syms.map (fun sym => (c sym).length)).toFinset.exists_le
  simp only [List.mem_toFinset] at hm
  refine ⟨m, hm, ?_⟩
  have hkraft : ((syms.map (fun sym => (c sym).length)).map (fun l => (1 / 2 : ℝ) ^ l)).sum ≤ 1 := by
    have := InformationTheory.kraft_mcmillan_inequality hdec
    rw [List.sum_toFinset _ (List.Nodup.map_on hinj hnodup)] at this
    simpa [Function.comp_def] using this
  rw [← Nat.cast_le (α := ℝ), sum_two_pow_sub_eq hm, Nat.cast_pow, Nat.cast_ofNat]
  exact mul_le_of_le_one_right (by positivity) hkraft

/-! ### Weights with their lengths -/

/-- The length of a code weighted by the counts, from pairs of a weight and a length. -/
def weightedLength (p : List (Nat × Nat)) : Nat := (p.map (fun x => x.1 * x.2)).sum

@[simp] theorem weightedLength_cons (w l : Nat) (p : List (Nat × Nat)) :
    weightedLength ((w, l) :: p) = w * l + weightedLength p := by
  simp [weightedLength]

@[simp] theorem weightedLength_concat (p : List (Nat × Nat)) (w l : Nat) :
    weightedLength (p ++ [(w, l)]) = weightedLength p + w * l := by
  simp [weightedLength]

/-- A least weight can be given the longest length, the others exchanged among the rest, at no cost. -/
theorem exists_longest_first (w l : Nat) (p : List (Nat × Nat)) (hw : ∀ x ∈ p, w ≤ x.1) :
    ∃ l' p', p'.map Prod.fst = p.map Prod.fst ∧ (l' :: p'.map Prod.snd).Perm (l :: p.map Prod.snd) ∧ l ≤ l' ∧
      (∀ x ∈ p', x.2 ≤ l') ∧ w * l' + weightedLength p' ≤ w * l + weightedLength p := by
  induction p generalizing l with
  | nil => exact ⟨l, [], rfl, .refl _, le_rfl, by simp, le_rfl⟩
  | cons x p ih =>
    obtain ⟨v, m⟩ := x
    have hv : w ≤ v := hw (v, m) List.mem_cons_self
    have hp : ∀ x ∈ p, w ≤ x.1 := fun x hx => hw x (List.mem_cons_of_mem _ hx)
    rcases le_total m l with hml | hlm
    · obtain ⟨l', p', hfst, hsnd, hl, hle, hcost⟩ := ih l hp
      refine ⟨l', (v, m) :: p', by simp [hfst], (List.Perm.swap _ _ _).trans ((hsnd.cons m).trans (.swap _ _ _)), hl,
        ?_, ?_⟩
      · simpa using ⟨hml.trans hl, fun a b hab => hle (a, b) hab⟩
      · simp only [weightedLength_cons]
        omega
    · obtain ⟨l', p', hfst, hsnd, hl, hle, hcost⟩ := ih m hp
      refine ⟨l', (v, l) :: p', by simp [hfst], (List.Perm.swap _ _ _).trans (hsnd.cons l), hlm.trans hl, ?_, ?_⟩
      · simpa using ⟨hlm.trans hl, fun a b hab => hle (a, b) hab⟩
      · have hswap : w * m + v * l ≤ w * l + v * m := mul_add_mul_le_mul_add_mul hv hlm
        simp only [weightedLength_cons]
        omega

theorem exists_eq_cons_of_map_fst {p : List (Nat × Nat)} {w : Nat} {ws : List Nat}
    (h : p.map Prod.fst = w :: ws) : ∃ l p', p = (w, l) :: p' ∧ p'.map Prod.fst = ws := by
  obtain ⟨⟨v, l⟩, p', rfl, rfl, hp'⟩ := List.map_eq_cons_iff.1 h
  exact ⟨l, p', rfl, hp'⟩

/-- The two least weights can be given the two longest lengths at no cost. -/
theorem exists_two_longest_first {a b : Nat} (la lb : Nat) {p : List (Nat × Nat)} (hab : a ≤ b)
    (hb : ∀ x ∈ p, b ≤ x.1) :
    ∃ la' lb' p', p'.map Prod.fst = p.map Prod.fst ∧
      (la' :: lb' :: p'.map Prod.snd).Perm (la :: lb :: p.map Prod.snd) ∧ lb' ≤ la' ∧ (∀ x ∈ p', x.2 ≤ lb') ∧
      a * la' + b * lb' + weightedLength p' ≤ a * la + b * lb + weightedLength p := by
  have ha : ∀ x ∈ (b, lb) :: p, a ≤ x.1 :=
    List.forall_mem_cons.2 ⟨hab, fun x hx => hab.trans (hb x hx)⟩
  obtain ⟨la', q, hqfst, hqsnd, -, hqle, hqcost⟩ := exists_longest_first a la ((b, lb) :: p) ha
  obtain ⟨l, p₁, rfl, hp₁⟩ := exists_eq_cons_of_map_fst hqfst
  have hb₁ : ∀ x ∈ p₁, b ≤ x.1 := fun x hx => by
    obtain ⟨y, hy, hyx⟩ := List.mem_map.1 (hp₁ ▸ List.mem_map_of_mem (f := Prod.fst) hx)
    exact hyx ▸ hb y hy
  obtain ⟨lb', p₂, hfst, hsnd, -, hle, hcost⟩ := exists_longest_first b l p₁ hb₁
  refine ⟨la', lb', p₂, hfst.trans hp₁, (hsnd.cons la').trans hqsnd, ?_, hle, ?_⟩
  · have hmem : lb' ∈ ((b, l) :: p₁).map Prod.snd := hsnd.mem_iff.1 List.mem_cons_self
    obtain ⟨x, hx, rfl⟩ := List.mem_map.1 hmem
    exact hqle x hx
  · simp only [weightedLength_cons] at hqcost
    omega

/-- Two least weights can be merged into one that has a length less by 1, at the cost of their sum. -/
theorem exists_mergedLengths {a b : Nat} {ws : List Nat} {p : List (Nat × Nat)} (hab : a ≤ b) (hb : ∀ w ∈ ws, b ≤ w)
    (hp : (a :: b :: ws).Perm (p.map Prod.fst)) (hk : Kraft (p.map Prod.snd)) :
    ∃ p', p'.map Prod.fst = ws ++ [a + b] ∧ Kraft (p'.map Prod.snd) ∧
      weightedLength p' + (a + b) ≤ weightedLength p := by
  obtain ⟨q, hq, hperm⟩ : ∃ q : List (Nat × Nat), a :: b :: ws = q.map Prod.fst ∧ q.Perm p :=
    (congrFun (congrFun (List.eq_map_comp_perm Prod.fst) (a :: b :: ws)) p).mpr hp
  obtain ⟨la, q₁, rfl, hq₁⟩ := exists_eq_cons_of_map_fst hq.symm
  obtain ⟨lb, q₂, rfl, rfl⟩ := exists_eq_cons_of_map_fst hq₁
  obtain ⟨la', lb', q₃, hfst, hsnd, hlonger, hlongest, hcost⟩ :=
    exists_two_longest_first la lb hab (List.forall_mem_map.1 hb)
  have hkraft : Kraft (la' :: lb' :: q₃.map Prod.snd) := (hk.perm (hperm.symm.map Prod.snd)).perm hsnd.symm
  obtain ⟨hpos, hkraft⟩ := hkraft.merge hlonger (List.forall_mem_map.2 hlongest)
  refine ⟨q₃ ++ [(a + b, lb' - 1)], by simp [hfst], by simpa using hkraft, ?_⟩
  calc weightedLength (q₃ ++ [(a + b, lb' - 1)]) + (a + b)
      = weightedLength q₃ + (a + b) * (lb' - 1 + 1) := by rw [weightedLength_concat, mul_add, mul_one, add_assoc]
    _ ≤ a * la' + b * lb' + weightedLength q₃ := by
      rw [Nat.sub_add_cancel hpos, add_mul]
      have := Nat.mul_le_mul_left a hlonger
      omega
    _ ≤ weightedLength ((a, la) :: (b, lb) :: q₂) := by
      simp only [weightedLength_cons]
      omega
    _ = weightedLength p := (hperm.map _).sum_eq

end Sys2Proof.Machine

/-! ## The codes of a tree (41_codegen R131)

What the code table of a spanning tree of distinct symbols holds, and the weight of its codes: each internal node's
weight is added once for every code that passes through it. -/

namespace Sys2Proof.Machine

/-! ### Leaves and codes -/

theorem Tree.leafCodes_map_fst (t : Tree) (path : Bits) : (t.leafCodes path).map Prod.fst = t.leafSyms := by
  induction t generalizing path with
  | leaf n sym => rfl
  | node n l r ihl ihr => simp [Tree.leafCodes, Tree.leafSyms, ihl, ihr]

/-- The symbol of a leaf. -/
def Node.leafSym : Node → Option Byte
  | .leaf sym _ => some sym
  | .internal _ _ _ => none

theorem leafSymbols_eq_filterMap (nodes : List Node) : leafSymbols nodes = nodes.filterMap Node.leafSym := by
  refine List.filterMap_congr fun n _ => ?_
  cases n <;> rfl

/-- The symbol of the leaf at an index. -/
def leafSymAt (nodes : List Node) (i : Nat) : Option Byte := nodes[i]?.bind Node.leafSym

theorem Tree.InArena.filterMap_leafSymAt {nodes : List Node} {t : Tree} (h : t.InArena nodes) :
    t.indices.filterMap (leafSymAt nodes) = t.leafSyms := by
  induction t with
  | leaf n sym =>
    obtain ⟨w, hw⟩ := h
    simp [Tree.indices, Tree.leafSyms, leafSymAt, hw, Node.leafSym]
  | node n l r ihl ihr =>
    obtain ⟨⟨w, a, b, hn, -, -⟩, hl, hr⟩ := h
    have hinner : leafSymAt nodes n = none := by simp [leafSymAt, hn, Node.leafSym]
    simp [Tree.indices, Tree.leafSyms, hinner, ihl hl, ihr hr]

theorem filterMap_leafSymAt_range (nodes : List Node) :
    (List.range nodes.length).filterMap (leafSymAt nodes) = leafSymbols nodes := by
  have hrange : (List.range nodes.length).map (fun i => nodes[i]?) = nodes.map some := by
    apply List.ext_getElem <;> simp +contextual
  calc (List.range nodes.length).filterMap (leafSymAt nodes)
      = ((List.range nodes.length).map (fun i => nodes[i]?)).filterMap (fun n => n.bind Node.leafSym) := by
        rw [List.filterMap_map]
        rfl
    _ = leafSymbols nodes := by
        rw [hrange, List.filterMap_map, leafSymbols_eq_filterMap]
        rfl

/-- The leaves of the tree are the leaves of the arena. -/
theorem SpansArena.leafSyms_perm {nodes : List Node} {root : NodeIndex} {t : Tree} (h : SpansArena nodes root t) :
    t.leafSyms.Perm (leafSymbols nodes) := by
  rw [← h.inArena.filterMap_leafSymAt, ← filterMap_leafSymAt_range]
  exact h.perm.filterMap _

theorem firstRepeat_eq_none {codes : List (Byte × Bits)} {seen : List Byte} (hnodup : (codes.map Prod.fst).Nodup)
    (hseen : ∀ x ∈ codes, x.1 ∉ seen) : firstRepeat seen codes = none := by
  induction codes generalizing seen with
  | nil => rfl
  | cons x codes ih =>
    obtain ⟨sym, code⟩ := x
    obtain ⟨hsym, hnodup⟩ := List.nodup_cons.1 hnodup
    rw [firstRepeat, if_neg (hseen _ List.mem_cons_self)]
    refine ih hnodup fun y hy => ?_
    rw [List.mem_cons, not_or]
    refine ⟨?_, hseen y (List.mem_cons_of_mem _ hy)⟩
    rintro rfl
    exact hsym (List.mem_map.2 ⟨y, hy, rfl⟩)

/-- A tree of distinct symbols has a code table, with the codes of its leaves. -/
theorem SpansArena.codes_eq {nodes : List Node} {root : NodeIndex} {t : Tree} (h : SpansArena nodes root t)
    (hnodup : t.leafSyms.Nodup) : codes nodes root = .ok (tableOfCodes (t.leafCodes [])) := by
  have hnone : firstRepeat [] (t.leafCodes []) = none :=
    firstRepeat_eq_none (by rwa [Tree.leafCodes_map_fst]) fun _ _ => List.not_mem_nil
  simp [codes, h.arenaTree_eq, hnone]

theorem lookup_eq_some_of_mem {codes : List (Byte × Bits)} (hnodup : (codes.map Prod.fst).Nodup) {sym : Byte}
    {code : Bits} (h : (sym, code) ∈ codes) : codes.lookup sym = some code := by
  obtain ⟨front, back, rfl⟩ := List.append_of_mem h
  refine List.lookup_eq_some_iff.2 ⟨front, back, rfl, fun x hx => ?_⟩
  rw [List.map_append, List.map_cons, List.nodup_middle, List.nodup_cons, List.mem_append, not_or] at hnodup
  simp only [bne_iff_ne, ne_eq]
  rintro rfl
  exact hnodup.1.1 (List.mem_map.2 ⟨x, hx, rfl⟩)

/-- The table entry of a leaf's symbol is the leaf's code. -/
theorem Tree.entry_tableOfCodes {t : Tree} (hnodup : t.leafSyms.Nodup) {x : Byte × Bits} (hx : x ∈ t.leafCodes []) :
    entry (tableOfCodes (t.leafCodes [])) x.1 = some x.2 := by
  rw [tableOfCodes, entry_table]
  exact lookup_eq_some_of_mem (by rwa [Tree.leafCodes_map_fst]) hx

/-! ### The weight of the codes -/

/-- The weight of an internal node, 0 for a leaf. -/
def Node.innerWeight : Node → Nat
  | .leaf _ _ => 0
  | .internal w _ _ => w.toNat

/-- The weights of the internal nodes of an arena, added up. -/
def innerWeight (nodes : List Node) : Nat := (nodes.map Node.innerWeight).sum

/-- The weight of the internal node at an index, 0 for a leaf. -/
def innerWeightAt (nodes : List Node) (i : Nat) : Nat := ((nodes[i]?).map Node.innerWeight).getD 0

/-- The nodes of an arena have the weights of `g`: a leaf its symbol's, an internal node its children's together. -/
structure Weighted (g : Byte → Nat) (nodes : List Node) : Prop where
  leaf : ∀ (k : Nat) (sym : Byte) (w : Word), nodes[k]? = some (.leaf sym w) → w.toNat = g sym
  inner : ∀ (k : Nat) (w : Word) (l r : NodeIndex), nodes[k]? = some (.internal w l r) →
    w.toNat = weightAt nodes l.toNat + weightAt nodes r.toNat

/-- Below a node at the end of `path`, a code is as long as the path and the internal nodes it passes. -/
theorem Tree.InArena.sum_leafCodes {g : Byte → Nat} {nodes : List Node} (hg : Weighted g nodes) {t : Tree}
    (h : t.InArena nodes) (path : Bits) :
    ((t.leafCodes path).map (fun x => g x.1 * x.2.length)).sum =
      weightAt nodes t.index * path.length + (t.indices.map (innerWeightAt nodes)).sum := by
  induction t generalizing path with
  | leaf n sym =>
    obtain ⟨w, hw⟩ := h
    simp [Tree.leafCodes, Tree.indices, innerWeightAt, hw, Node.innerWeight, weightAt_of_getElem? hw, Node.weight,
      hg.leaf n sym w hw]
  | node n l r ihl ihr =>
    obtain ⟨⟨w, a, b, hn, ha, hb⟩, hl, hr⟩ := h
    have hw := hg.inner n w a b hn
    rw [ha, hb] at hw
    simp only [Tree.leafCodes, Tree.indices, Tree.index_node, List.map_append, List.sum_append, List.map_cons,
      List.sum_cons, ihl hl, ihr hr, innerWeightAt, hn, weightAt_of_getElem? hn, Node.weight, Node.innerWeight, hw,
      List.length_append, List.length_singleton, Option.map_some, Option.getD_some]
    ring

theorem sum_innerWeightAt_range (nodes : List Node) :
    ((List.range nodes.length).map (innerWeightAt nodes)).sum = innerWeight nodes := by
  have hmap : (List.range nodes.length).map (innerWeightAt nodes) = nodes.map Node.innerWeight := by
    apply List.ext_getElem <;> simp +contextual [innerWeightAt]
  rw [hmap, innerWeight]

/-- The codes of a tree weigh as much as its internal nodes. -/
theorem SpansArena.sum_leafCodes {g : Byte → Nat} {nodes : List Node} {root : NodeIndex} {t : Tree}
    (h : SpansArena nodes root t) (hg : Weighted g nodes) :
    ((t.leafCodes []).map (fun x => g x.1 * x.2.length)).sum = innerWeight nodes := by
  rw [h.inArena.sum_leafCodes hg, List.length_nil, mul_zero, zero_add, (h.perm.map _).sum_eq, sum_innerWeightAt_range]

/-- The same, with the lengths read from the code table. -/
theorem SpansArena.sum_entry_length {g : Byte → Nat} {nodes : List Node} {root : NodeIndex} {t : Tree}
    (h : SpansArena nodes root t) (hg : Weighted g nodes) (hnodup : t.leafSyms.Nodup) :
    (t.leafSyms.map (fun sym => g sym * ((entry (tableOfCodes (t.leafCodes [])) sym).getD []).length)).sum =
      innerWeight nodes := by
  rw [← h.sum_leafCodes hg, ← t.leafCodes_map_fst [], List.map_map]
  refine congrArg (List.sum (α := Nat)) (List.map_congr_left fun x hx => ?_)
  simp only [Function.comp, Tree.entry_tableOfCodes hnodup hx, Option.getD_some]

end Sys2Proof.Machine

/-! ## BUILD's codes are minimal (40_count_build R113)

Every turn keeps a bound from below: a code of the symbols no word of which begins another leaves lengths for the nodes
of the queue that meet Kraft's inequality and cost no more, the weight of the merges made so far included. -/

namespace Sys2Proof.Machine

/-- The nodes of the queue can be given lengths that meet Kraft's inequality and, with the internal nodes made, weigh at
most `c`. -/
def MergesWithin (c : Nat) (nodes : List Node) (q : List QueueItem) : Prop :=
  ∃ p : List (Nat × Nat), (q.map QueueItem.weight).Perm (p.map Prod.fst) ∧ Kraft (p.map Prod.snd) ∧
    weightedLength p + innerWeight nodes ≤ c

theorem MergesWithin.merge {c : Nat} {nodes : List Node} {q rest : List QueueItem} {a b : QueueItem}
    (h : MergesWithin c nodes q) (ht : TakesTwoLeast q a b rest)
    (hw : (BitVec.ofNat 32 (a.weight + b.weight)).toNat = a.weight + b.weight) :
    MergesWithin c (nodes ++ [mergedNode a b]) (rest ++ [⟨a.weight + b.weight, nodes.length⟩]) := by
  obtain ⟨p, hp, hk, hc⟩ := h
  have hperm : (a.weight :: b.weight :: rest.map QueueItem.weight).Perm (p.map Prod.fst) :=
    ((ht.perm.map QueueItem.weight).symm).trans hp
  have hab : a.weight ≤ b.weight := QueueItem.weight_le_of_before (ht.first b List.mem_cons_self)
  have hb : ∀ w ∈ rest.map QueueItem.weight, b.weight ≤ w :=
    List.forall_mem_map.2 fun x hx => QueueItem.weight_le_of_before (ht.second x hx)
  obtain ⟨p', hp', hk', hc'⟩ := exists_mergedLengths hab hb hperm hk
  have hinner : innerWeight (nodes ++ [mergedNode a b]) = innerWeight nodes + (a.weight + b.weight) := by
    simp [innerWeight, mergedNode, Node.innerWeight, hw]
  refine ⟨p', by simp [hp'], hk', ?_⟩
  rw [hinner]
  omega

theorem innerWeight_initialLeaves (f : FreqTable) : innerWeight (initialLeaves f) = 0 := by
  refine List.sum_eq_zero fun n hn => ?_
  obtain ⟨m, hm, rfl⟩ := List.mem_map.1 hn
  obtain ⟨sym, w, rfl⟩ := isLeaf_of_mem_initialLeaves hm
  rfl

/-- Before the first merge the lengths are those of the code itself. -/
theorem mergesWithin_start {f : FreqTable} (hlen : 2 ≤ (presentSymbols f).length) {c : Byte → Bits}
    (hfree : ∀ x ∈ presentSymbols f, ∀ y ∈ presentSymbols f, x ≠ y → ¬c x <+: c y) :
    MergesWithin ((presentSymbols f).map (fun sym => (entry f sym).toNat * (c sym).length)).sum (initialLeaves f)
      (initialQueue (initialLeaves f)) := by
  refine ⟨(presentSymbols f).map (fun sym => ((entry f sym).toNat, (c sym).length)), ?_, ?_, ?_⟩
  · rw [initialQueue_map_weight, initialLeaves_eq_map, List.map_map, List.map_map]
    exact .refl _
  · rw [List.map_map]
    exact kraft_of_prefixFree (symbols_nodup.filter _) hlen hfree
  · rw [innerWeight_initialLeaves, weightedLength, List.map_map, add_zero]
    exact le_rfl

/-- The internal nodes of the arena built weigh no more than any code of the present symbols in which no word begins
another. -/
theorem buildTree_innerWeight_le {f : FreqTable} {nodes : List Node} {root : NodeIndex}
    (hf : totalCount f ≤ 0xFFFFFFFF) (h : buildTree f = .ok (nodes, root)) (hlen : 2 ≤ (presentSymbols f).length)
    {c : Byte → Bits} (hfree : ∀ x ∈ presentSymbols f, ∀ y ∈ presentSymbols f, x ≠ y → ¬c x <+: c y) :
    innerWeight nodes ≤ ((presentSymbols f).map (fun sym => (entry f sym).toNat * (c sym).length)).sum := by
  obtain ⟨-, x, -, p, -, -, hp⟩ := buildTree_induction
    (P := fun nodes q => MergeInv f nodes q ∧ MergesWithin _ nodes q) ⟨mergeInv_start f, mergesWithin_start hlen hfree⟩
    (fun hinv ht => ⟨hinv.1.merge hf ht, hinv.2.merge ht (hinv.1.toNat_mergedNode hf ht).1⟩) h
  exact (Nat.le_add_left _ _).trans hp

theorem buildTree_weighted {f : FreqTable} {nodes : List Node} {root : NodeIndex} (hf : totalCount f ≤ 0xFFFFFFFF)
    (h : buildTree f = .ok (nodes, root)) : Weighted (fun sym => (entry f sym).toNat) nodes where
  leaf k sym w hk := by
    obtain ⟨inner, rfl, hinner⟩ := buildTree_leaves hf h
    rcases List.mem_append.1 (List.mem_of_getElem? hk) with hmem | hmem
    · obtain ⟨sym', -, heq⟩ := List.mem_map.1 hmem
      cases heq
      rfl
    · cases hinner _ hmem
  inner k w l r hk := (buildTree_mergedAt hf h hk).weight

/-- The leaves of the arena built are the present symbols. -/
theorem buildTree_leafSymbols {f : FreqTable} {nodes : List Node} {root : NodeIndex} (hf : totalCount f ≤ 0xFFFFFFFF)
    (h : buildTree f = .ok (nodes, root)) : leafSymbols nodes = presentSymbols f := by
  obtain ⟨inner, rfl, hinner⟩ := buildTree_leaves hf h
  have hnone : inner.filterMap Node.leafSym = [] := List.filterMap_eq_nil_iff.2 fun n hn => by
    cases n with
    | leaf sym w => cases hinner _ hn
    | internal w l r => rfl
  rw [leafSymbols_eq_filterMap, List.filterMap_append, hnone, List.append_nil, List.filterMap_map]
  exact List.filterMap_some

/-- Settles O28: the codes weigh as much as the internal nodes, which weigh no more than a code that meets Kraft's
inequality. -/
theorem builtTreeIsOptimal : Obligations.BuiltTreeIsOptimal := by
  intro s hlen hf
  obtain ⟨nodes, root, hbuild⟩ := exists_buildTree_eq_ok (f := s.freq) (by rintro h; simp [h] at hlen)
  obtain ⟨t, ht⟩ := (buildTree_spans hbuild).1
  have hperm : t.leafSyms.Perm (presentSymbols s.freq) := buildTree_leafSymbols hf hbuild ▸ ht.leafSyms_perm
  have hnodup : t.leafSyms.Nodup := hperm.nodup_iff.2 (symbols_nodup.filter _)
  refine ⟨_, _, exec_build_of_ok hbuild, ht.codes_eq hnodup, fun sym hsym => ?_, fun c hfree => ?_⟩
  · rw [← hperm.mem_iff, ← t.leafCodes_map_fst []] at hsym
    obtain ⟨x, hx, rfl⟩ := List.mem_map.1 hsym
    rw [Tree.entry_tableOfCodes hnodup hx]
    rfl
  · rw [← (hperm.map _).sum_eq, ht.sum_entry_length (buildTree_weighted hf hbuild) hnodup]
    exact buildTree_innerWeight_le hf hbuild hlen hfree

end Sys2Proof.Machine

/-! ## CODEGEN and the laws of codes (41_codegen.md)

The code table is read off the arena by paths: `codes_entry_iff` says that a code is the path from the root to the
symbol's leaf. CODEGEN's result and the prefix law are read off paths, the length bound off the tree. -/

namespace Sys2Proof.Machine

/-! ### Paths to leaves -/

section
variable {nodes : List Node} {root : NodeIndex} {sym : Byte}

theorem leadsToLeaf_nil_iff : LeadsToLeaf nodes root [] sym ↔ ∃ w, nodes[root.toNat]? = some (.leaf sym w) := by
  simp [LeadsToLeaf, follow]

/-- A path goes on only from an internal node, into the child its first bit names. -/
theorem leadsToLeaf_cons_iff {b : Bool} {path : Bits} :
    LeadsToLeaf nodes root (b :: path) sym ↔
      ∃ w l r, nodes[root.toNat]? = some (.internal w l r) ∧ LeadsToLeaf nodes (if b then r else l) path sym := by
  rcases hn : nodes[root.toNat]? with _ | ⟨sym', w⟩ | ⟨w, l, r⟩
  · simp [LeadsToLeaf, follow, hn]
  · simp [LeadsToLeaf, follow, hn]
  · cases b <;> simp [LeadsToLeaf, follow, hn]

/-- No path to a leaf goes through a leaf, so paths one of which begins the other lead to the same leaf. -/
theorem LeadsToLeaf.symbol_eq_of_prefix {x y : Byte} {c d : Bits} (hc : LeadsToLeaf nodes root c x)
    (hd : LeadsToLeaf nodes root d y) (hcd : c <+: d) : x = y := by
  induction c generalizing root d with
  | nil =>
    obtain ⟨w, hx⟩ := leadsToLeaf_nil_iff.1 hc
    cases d with
    | nil =>
      obtain ⟨w', hy⟩ := leadsToLeaf_nil_iff.1 hd
      rw [hx] at hy
      cases hy
      rfl
    | cons b d =>
      obtain ⟨w', l, r, hy, -⟩ := leadsToLeaf_cons_iff.1 hd
      rw [hx] at hy
      cases hy
  | cons b c ih =>
    obtain ⟨more, rfl⟩ := hcd
    obtain ⟨w, l, r, hn, hc⟩ := leadsToLeaf_cons_iff.1 hc
    obtain ⟨w', l', r', hn', hd⟩ := leadsToLeaf_cons_iff.1 hd
    rw [hn] at hn'
    cases hn'
    exact ih hc hd (List.prefix_append c more)

end

/-! ### The codes of a tree's leaves -/

/-- `Visit(n, path)` puts the path in front of the codes below `n` (41_codegen R131). -/
theorem Tree.leafCodes_eq_map (t : Tree) (path : Bits) :
    t.leafCodes path = (t.leafCodes []).map (fun x => (x.1, path ++ x.2)) := by
  induction t generalizing path with
  | leaf n sym => simp [Tree.leafCodes]
  | node n l r ihl ihr =>
    simp only [Tree.leafCodes, List.nil_append]
    rw [ihl (path ++ [false]), ihr (path ++ [true]), ihl [false], ihr [true]]
    simp [Function.comp_def]

theorem Tree.mem_leafCodes_leaf {n : Nat} {sym sym' : Byte} {code : Bits} :
    (sym, code) ∈ (Tree.leaf n sym').leafCodes [] ↔ sym = sym' ∧ code = [] := by
  simp [Tree.leafCodes]

theorem Tree.nil_not_mem_leafCodes_node {n : Nat} {l r : Tree} {sym : Byte} :
    (sym, []) ∉ (Tree.node n l r).leafCodes [] := by
  simp [Tree.leafCodes, l.leafCodes_eq_map [false], r.leafCodes_eq_map [true]]

theorem Tree.cons_mem_leafCodes_node {n : Nat} {l r : Tree} {sym : Byte} {b : Bool} {code : Bits} :
    (sym, b :: code) ∈ (Tree.node n l r).leafCodes [] ↔ (sym, code) ∈ (if b then r else l).leafCodes [] := by
  cases b <;> simp [Tree.leafCodes, l.leafCodes_eq_map [false], r.leafCodes_eq_map [true]]

/-- The code of a leaf is the path from the tree's root to it. -/
theorem Tree.InArena.mem_leafCodes_iff {nodes : List Node} {t : Tree} (h : t.InArena nodes) {root : NodeIndex}
    (hroot : t.index = root.toNat) {sym : Byte} {code : Bits} :
    (sym, code) ∈ t.leafCodes [] ↔ LeadsToLeaf nodes root code sym := by
  induction t generalizing root code with
  | leaf n sym' =>
    obtain ⟨w, hw⟩ := h
    rw [Tree.index_leaf] at hroot
    rw [hroot] at hw
    rw [Tree.mem_leafCodes_leaf]
    cases code with
    | nil => simp [leadsToLeaf_nil_iff, hw, eq_comm]
    | cons b code => simp [leadsToLeaf_cons_iff, hw]
  | node n l r ihl ihr =>
    obtain ⟨⟨w, i, j, hn, hi, hj⟩, hl, hr⟩ := h
    rw [Tree.index_node] at hroot
    rw [hroot] at hn
    cases code with
    | nil => simp [Tree.nil_not_mem_leafCodes_node, leadsToLeaf_nil_iff, hn]
    | cons b code =>
      have hchild : LeadsToLeaf nodes root (b :: code) sym ↔ LeadsToLeaf nodes (if b then j else i) code sym := by
        simp [leadsToLeaf_cons_iff, hn]
      rw [Tree.cons_mem_leafCodes_node, hchild]
      cases b with
      | false => exact ihl hl hi.symm
      | true => exact ihr hr hj.symm

theorem Tree.leafSyms_length_pos (t : Tree) : 0 < t.leafSyms.length := by
  have := t.length_indices
  omega

/-- A leaf lies below fewer internal nodes than the tree has leaves (41_codegen R134). -/
theorem Tree.length_code_lt {t : Tree} {sym : Byte} {code : Bits} (h : (sym, code) ∈ t.leafCodes []) :
    code.length < t.leafSyms.length := by
  induction t generalizing code with
  | leaf n sym' =>
    obtain ⟨-, rfl⟩ := Tree.mem_leafCodes_leaf.1 h
    exact Tree.leafSyms_length_pos _
  | node n l r ihl ihr =>
    have hl := l.leafSyms_length_pos
    have hr := r.leafSyms_length_pos
    rw [Tree.leafSyms, List.length_append]
    cases code with
    | nil => exact absurd h Tree.nil_not_mem_leafCodes_node
    | cons b code =>
      rw [Tree.cons_mem_leafCodes_node] at h
      rw [List.length_cons]
      cases b with
      | false => have := ihl h; omega
      | true => have := ihr h; omega

/-! ### Repeated symbols -/

theorem nodup_of_firstRepeat_eq_none {codes : List (Byte × Bits)} {seen : List Byte}
    (h : firstRepeat seen codes = none) : (codes.map Prod.fst).Nodup ∧ ∀ x ∈ codes, x.1 ∉ seen := by
  induction codes generalizing seen with
  | nil => simp
  | cons x codes ih =>
    obtain ⟨sym, code⟩ := x
    by_cases hsym : sym ∈ seen
    · simp [firstRepeat, hsym] at h
    · rw [firstRepeat, if_neg hsym] at h
      obtain ⟨hnodup, hseen⟩ := ih h
      refine ⟨List.nodup_cons.2 ⟨fun hmem => ?_, hnodup⟩, List.forall_mem_cons.2 ⟨hsym, fun x hx => ?_⟩⟩
      · obtain ⟨x, hx, rfl⟩ := List.mem_map.1 hmem
        exact hseen x hx List.mem_cons_self
      · exact fun hmem => hseen x hx (List.mem_cons_of_mem _ hmem)

/-- The first symbol met a second time, when the symbols before it are distinct (41_codegen R131). -/
theorem firstRepeat_eq_some {codes : List (Byte × Bits)} {seen before after : List Byte} {sym : Byte}
    (hcodes : codes.map Prod.fst = before ++ sym :: after) (hnodup : before.Nodup) (hnew : ∀ x ∈ before, x ∉ seen)
    (hsym : sym ∈ before ∨ sym ∈ seen) : firstRepeat seen codes = some sym := by
  induction before generalizing seen codes with
  | nil =>
    obtain ⟨⟨_, code⟩, rest, rfl, rfl, -⟩ := List.map_eq_cons_iff.1 hcodes
    rw [firstRepeat, if_pos (hsym.resolve_left List.not_mem_nil)]
  | cons y before ih =>
    obtain ⟨⟨_, code⟩, rest, rfl, rfl, hrest⟩ := List.map_eq_cons_iff.1 hcodes
    obtain ⟨hy, hnodup⟩ := List.nodup_cons.1 hnodup
    rw [firstRepeat, if_neg (hnew _ List.mem_cons_self)]
    refine ih hrest hnodup (fun x hx hmem => ?_) ?_
    · rcases List.mem_cons.1 hmem with rfl | hmem
      · exact hy hx
      · exact hnew x (List.mem_cons_of_mem _ hx) hmem
    · rcases hsym with hsym | hsym
      · rcases List.mem_cons.1 hsym with rfl | hsym
        · exact .inr List.mem_cons_self
        · exact .inl hsym
      · exact .inr (List.mem_cons_of_mem _ hsym)

/-! ### The code table -/

theorem arenaTree_nil (root : NodeIndex) : arenaTree [] root = none := rfl

/-- A code table is that of the arena's tree, whose symbols are distinct. -/
theorem exists_arenaTree_of_codes {nodes : List Node} {root : NodeIndex} {ct : CodeTable}
    (h : codes nodes root = .ok ct) :
    ∃ t, arenaTree nodes root = some t ∧ t.leafSyms.Nodup ∧ ct = tableOfCodes (t.leafCodes []) := by
  unfold codes at h
  split at h
  · cases h
  · rename_i t ht
    split at h
    · cases h
    · rename_i hnone
      cases h
      exact ⟨t, ht, t.leafCodes_map_fst [] ▸ (nodup_of_firstRepeat_eq_none hnone).1, rfl⟩

/-- A tree with distinct symbols: the table holds the codes of its leaves and nothing else. -/
theorem Tree.entry_tableOfCodes_iff {t : Tree} (hnodup : t.leafSyms.Nodup) {sym : Byte} {code : Bits} :
    entry (tableOfCodes (t.leafCodes [])) sym = some code ↔ (sym, code) ∈ t.leafCodes [] := by
  refine ⟨fun h => ?_, fun h => Tree.entry_tableOfCodes hnodup h⟩
  rw [tableOfCodes, entry_table] at h
  obtain ⟨front, back, hsplit, -⟩ := List.lookup_eq_some_iff.1 h
  rw [hsplit]
  exact List.mem_append_right _ List.mem_cons_self

/-- `Codes(NODE, ROOT)`: the code of a symbol is the path from the root to its leaf (41_codegen R131). -/
theorem codes_entry_iff {nodes : List Node} {root : NodeIndex} {ct : CodeTable} (h : codes nodes root = .ok ct)
    {sym : Byte} {code : Bits} : entry ct sym = some code ↔ LeadsToLeaf nodes root code sym := by
  obtain ⟨t, ht, hnodup, rfl⟩ := exists_arenaTree_of_codes h
  obtain ⟨hin, hindex⟩ := inArena_of_treeAt ht
  rw [Tree.entry_tableOfCodes_iff hnodup, hin.mem_leafCodes_iff hindex]

theorem ArenaOk.spansArena {nodes : List Node} {root : NodeIndex} {t : Tree} (h : ArenaOk nodes root)
    (ht : arenaTree nodes root = some t) : SpansArena nodes root t := by
  obtain ⟨t', ht'⟩ := h.exists_spansArena (by rintro rfl; cases ht)
  cases ht'.arenaTree_eq.symm.trans ht
  exact ht'

theorem SpansArena.length_indices {nodes : List Node} {root : NodeIndex} {t : Tree} (h : SpansArena nodes root t) :
    t.indices.length = nodes.length := by
  simpa using h.perm.length_eq

/-! ### CODEGEN -/

/-- CODEGEN has no region to check. -/
theorem exec_codegen_eq (s : State) :
    exec .codegen s = completeRun (cmdInfo .codegen) s (codegenBody s (s.snap.getD [])) :=
  exec_eq_completeRun (by simp [startCheck, cmdInfo]) (by simp [platformCheck, activeRegions, cmdInfo])

theorem exec_codegen_of_ok {s : State} {ct : CodeTable} (hne : s.nodes ≠ []) (h : codes s.nodes s.root = .ok ct) :
    exec .codegen s = .next ((s.setCT ct).completeOk []) := by
  rw [exec_codegen_eq, codegenBody, if_neg hne, h]
  rfl

theorem exec_codegen_of_empty {s : State} (h : s.nodes = []) :
    exec .codegen s = .next (s.completeError (cmdInfo .codegen) .noTree 0) := by
  rw [exec_codegen_eq, codegenBody, if_pos h]
  rfl

theorem exec_codegen_of_repeat {s : State} {t : Tree} {sym : Byte} (ht : arenaTree s.nodes s.root = some t)
    (h : firstRepeat [] (t.leafCodes []) = some sym) :
    exec .codegen s = .next (s.completeError (cmdInfo .codegen) .dupSymbol sym.toNat) := by
  have hne : s.nodes ≠ [] := fun hnil => by simp [hnil, arenaTree_nil] at ht
  have hcodes : codes s.nodes s.root = raise .dupSymbol sym.toNat := by simp only [codes, ht, h]
  rw [exec_codegen_eq, codegenBody, if_neg hne, hcodes]
  rfl

/-- Settles O29: the table written is that of the arena's tree, whose codes are the paths to its leaves. -/
theorem codegenResult : Obligations.CodegenResult := by
  intro s hok hne hnodup
  obtain ⟨tr, htr⟩ := hok.exists_spansArena hne
  have hcodes := htr.codes_eq (htr.leafSyms_perm.nodup_iff.2 hnodup)
  have hexec := exec_codegen_of_ok hne hcodes
  have hframe := exec_frame hexec
  exact ⟨_, hexec, fun sym code => codes_entry_iff hcodes, rfl, ⟨rfl, rfl, rfl, rfl, rfl, rfl, rfl⟩, ⟨rfl, rfl⟩, rfl,
    rfl, rfl, rfl, hframe.config, hframe.surroundings⟩

/-- Settles O30: an error clears the code table alone, CODEGEN's write set. -/
theorem codegenErrors : Obligations.CodegenErrors := by
  refine ⟨fun s hnil => ?_, fun s tr before after sym htr hsyms hnodup hsym => ?_⟩
  · exact ⟨_, exec_codegen_of_empty hnil, ⟨rfl, rfl, rfl, rfl, rfl, rfl, rfl⟩, codeTableCleared_of_eq rfl rfl,
      ⟨rfl, rfl⟩, rfl, rfl⟩
  · have hrepeat : firstRepeat [] (tr.leafCodes []) = some sym :=
      firstRepeat_eq_some ((tr.leafCodes_map_fst []).trans hsyms) hnodup (fun _ _ => List.not_mem_nil) (.inl hsym)
    have hpos : (BitVec.ofNat 32 sym.toNat).toNat = sym.toNat := by
      rw [BitVec.toNat_ofNat]
      have := sym.isLt
      omega
    exact ⟨_, exec_codegen_of_repeat htr hrepeat, ⟨rfl, rfl, hpos, rfl, rfl, rfl, rfl⟩, codeTableCleared_of_eq rfl rfl,
      ⟨rfl, rfl⟩, rfl, rfl⟩

/-- Settles O31: codes are paths to leaves, and the root of an arena with two leaves is none. -/
theorem codesArePrefixFree : Obligations.CodesArePrefixFree := by
  intro nodes root ct hok hleaves hcodes
  constructor
  · intro x y c d hxy hx hy hprefix
    exact hxy (((codes_entry_iff hcodes).1 hx).symbol_eq_of_prefix ((codes_entry_iff hcodes).1 hy) hprefix)
  · rintro x - hx rfl
    obtain ⟨t, ht, hnodup, rfl⟩ := exists_arenaTree_of_codes hcodes
    have hspan := hok.spansArena ht
    rw [Tree.entry_tableOfCodes_iff hnodup] at hx
    cases t with
    | node n l r => exact Tree.nil_not_mem_leafCodes_node hx
    | leaf n sym =>
      have hone : nodes.length = 1 := hspan.length_indices.symm
      have := hspan.length_eq
      omega

/-- Settles O32: an arena of at most 511 nodes has at most 256 leaves, more than a code has bits. -/
theorem codeLengthBound : Obligations.CodeLengthBound := by
  intro nodes root ct hok hcodes sym code hcode
  obtain ⟨t, ht, hnodup, rfl⟩ := exists_arenaTree_of_codes hcodes
  have hlt := Tree.length_code_lt ((Tree.entry_tableOfCodes_iff hnodup).1 hcode)
  have hnodes : t.indices.length ≤ 511 := (hok.spansArena ht).length_indices.trans_le hok.1
  have hleaves := t.length_indices
  omega

end Sys2Proof.Machine

/-! ## The texts that `Utf8Dec` reads (30_encoding R96, R97) -/

namespace Sys2Proof.Machine

/-! ### One character -/

/-- The first-byte ranges of two rows share no byte. -/
theorem utf8Table_disjoint : ∀ r ∈ utf8Table, ∀ q ∈ utf8Table, r.lo ≤ q.hi → q.lo ≤ r.hi → r = q := by decide

theorem utf8Row_eq_some_iff {c : Nat} {row : Utf8Row} :
    utf8Row c = some row ↔ row ∈ utf8Table ∧ row.lo ≤ c ∧ c ≤ row.hi := by
  have sound : ∀ {q}, utf8Row c = some q → q ∈ utf8Table ∧ q.lo ≤ c ∧ c ≤ q.hi := fun h =>
    ⟨List.mem_of_find?_eq_some h, by simpa using List.find?_some h⟩
  refine ⟨sound, fun ⟨hrow, hlo, hhi⟩ => ?_⟩
  cases hfound : utf8Row c with
  | none => simpa [hlo, hhi] using List.find?_eq_none.1 hfound row hrow
  | some q =>
    obtain ⟨hq, hqlo, hqhi⟩ := sound hfound
    rw [utf8Table_disjoint q hq row hrow (hqlo.trans hhi) (hlo.trans hqhi)]

theorem utf8Tail_cons_eq_some_iff {lo hi acc cp : Nat} {ranges : List (Nat × Nat)} {bytes : List Byte} :
    utf8Tail ((lo, hi) :: ranges) bytes acc = some cp ↔
      ∃ b rest, bytes = b :: rest ∧ lo ≤ b.toNat ∧ b.toNat ≤ hi ∧
        utf8Tail ranges rest (acc * 64 + b.toNat % 64) = some cp := by
  cases bytes with
  | nil => simp [utf8Tail]
  | cons b rest => simp [utf8Tail, and_assoc]

theorem utf8Tail_nil_eq_some_iff {acc cp : Nat} {bytes : List Byte} : utf8Tail [] bytes acc = some cp ↔ acc = cp := by
  simp [utf8Tail]

theorem utf8Head_eq_some_iff {c : Byte} {rest : List Byte} {cp more : Nat} :
    utf8Head c rest = some (cp, more) ↔
      ∃ row, utf8Row c.toNat = some row ∧ utf8Tail row.tail rest (c.toNat % (row.mask + 1)) = some cp ∧
        row.tail.length = more := by
  unfold utf8Head
  cases utf8Row c.toNat with
  | none => simp
  | some row => simp [Option.map_eq_some_iff]

theorem utf8Bytes_eq_one {c : Byte} (h : c.toNat < 0x80) : utf8Bytes c.toNat = [c] := by
  simp [utf8Bytes, h]

theorem utf8Bytes_eq_two {c b : Byte} {cp : Nat} (hc : 0xC0 ≤ c.toNat ∧ c.toNat ≤ 0xDF)
    (hb : 0x80 ≤ b.toNat ∧ b.toNat ≤ 0xBF) (hcp : c.toNat % 32 * 64 + b.toNat % 64 = cp) (hlo : 0x80 ≤ cp) :
    utf8Bytes cp = [c, b] := by
  rw [utf8Bytes, if_neg (by omega), if_pos (by omega)]
  congr 2 <;> bv_omega

theorem utf8Bytes_eq_three {c b d : Byte} {cp : Nat} (hc : 0xE0 ≤ c.toNat ∧ c.toNat ≤ 0xEF)
    (hb : 0x80 ≤ b.toNat ∧ b.toNat ≤ 0xBF) (hd : 0x80 ≤ d.toNat ∧ d.toNat ≤ 0xBF)
    (hcp : (c.toNat % 16 * 64 + b.toNat % 64) * 64 + d.toNat % 64 = cp) (hlo : 0x800 ≤ cp) :
    utf8Bytes cp = [c, b, d] := by
  rw [utf8Bytes, if_neg (by omega), if_neg (by omega), if_pos (by omega)]
  congr 3 <;> bv_omega

theorem utf8Bytes_eq_four {c b d e : Byte} {cp : Nat} (hc : 0xF0 ≤ c.toNat ∧ c.toNat ≤ 0xF7)
    (hb : 0x80 ≤ b.toNat ∧ b.toNat ≤ 0xBF) (hd : 0x80 ≤ d.toNat ∧ d.toNat ≤ 0xBF)
    (he : 0x80 ≤ e.toNat ∧ e.toNat ≤ 0xBF)
    (hcp : ((c.toNat % 8 * 64 + b.toNat % 64) * 64 + d.toNat % 64) * 64 + e.toNat % 64 = cp) (hlo : 0x10000 ≤ cp) :
    utf8Bytes cp = [c, b, d, e] := by
  rw [utf8Bytes, if_neg (by omega), if_neg (by omega), if_neg (by omega)]
  congr 4 <;> bv_omega

theorem isScalar_iff {cp : Nat} : isScalar cp = true ↔ cp < 0xD800 ∨ (0xE000 ≤ cp ∧ cp < 0x110000) := by
  simp [isScalar]

/-- What the table reads is a scalar's sequence (30_encoding R97). -/
theorem utf8Head_sound {c : Byte} {rest : List Byte} {cp more : Nat} (h : utf8Head c rest = some (cp, more)) :
    isScalar cp = true ∧ ∃ tail bytes, utf8Bytes cp = c :: tail ∧ rest = tail ++ bytes ∧ tail.length = more := by
  simp only [utf8Head_eq_some_iff, utf8Row_eq_some_iff] at h
  obtain ⟨row, ⟨hrow, hlo, hhi⟩, htail, rfl⟩ := h
  rw [isScalar_iff]
  simp only [utf8Table, List.mem_cons, List.not_mem_nil, or_false] at hrow
  rcases hrow with rfl | rfl | rfl | rfl | rfl | rfl | rfl | rfl | rfl <;>
    simp only [utf8Tail_cons_eq_some_iff, utf8Tail_nil_eq_some_iff] at htail hlo hhi
  · obtain rfl : c.toNat = cp := by omega
    exact ⟨by omega, [], rest, utf8Bytes_eq_one (by omega), rfl, rfl⟩
  · obtain ⟨b, rest, rfl, hb, hb', hcp⟩ := htail
    exact ⟨by omega, [b], rest, utf8Bytes_eq_two (by omega) (by omega) hcp (by omega), rfl, rfl⟩
  -- four rows of three bytes, then three rows of four
  all_goals obtain ⟨b, _, rfl, hb, hb', d, rest, rfl, hd, hd', htail⟩ := htail
  iterate 4
    exact ⟨by omega, [b, d], rest, utf8Bytes_eq_three (by omega) (by omega) (by omega) htail (by omega), rfl, rfl⟩
  all_goals obtain ⟨e, rest, rfl, he, he', hcp⟩ := htail
  all_goals
    exact ⟨by omega, [b, d, e], rest,
      utf8Bytes_eq_four (by omega) (by omega) (by omega) (by omega) hcp (by omega), rfl, rfl⟩

/-- The row of the first byte `n` decides. -/
theorem utf8Head_ofNat {row : Utf8Row} {n : Nat} (hrow : row ∈ utf8Table) (hn : row.lo ≤ n ∧ n ≤ row.hi)
    (hbyte : n < 256) (rest : List Byte) :
    utf8Head (BitVec.ofNat 8 n) rest =
      (utf8Tail row.tail rest (n % (row.mask + 1))).map (fun cp => (cp, row.tail.length)) := by
  have hnat : (BitVec.ofNat 8 n).toNat = n := by rw [BitVec.toNat_ofNat]; omega
  rw [utf8Head, hnat, utf8Row_eq_some_iff.2 ⟨hrow, hn⟩]

/-- A byte `n` in its range goes into the code point. -/
theorem utf8Tail_cons_ofNat {lo hi n : Nat} (hn : lo ≤ n ∧ n ≤ hi) (hbyte : n < 256) (ranges : List (Nat × Nat))
    (bytes : List Byte) (acc : Nat) :
    utf8Tail ((lo, hi) :: ranges) (BitVec.ofNat 8 n :: bytes) acc = utf8Tail ranges bytes (acc * 64 + n % 64) := by
  have hnat : (BitVec.ofNat 8 n).toNat = n := by rw [BitVec.toNat_ofNat]; omega
  rw [utf8Tail, hnat, if_pos hn]

/-- A row of three-byte sequences reads those of its range. -/
theorem utf8Head_three {lo hi lo' hi' cp : Nat} (hrow : ⟨lo, hi, 0x0F, [(lo', hi'), (0x80, 0xBF)]⟩ ∈ utf8Table)
    (hcp : cp < 0x10000) (hc : lo ≤ 0xE0 + cp / 4096 ∧ 0xE0 + cp / 4096 ≤ hi)
    (hb : lo' ≤ 0x80 + cp / 64 % 64 ∧ 0x80 + cp / 64 % 64 ≤ hi') (bytes : List Byte) :
    utf8Head (BitVec.ofNat 8 (0xE0 + cp / 4096))
      (BitVec.ofNat 8 (0x80 + cp / 64 % 64) :: BitVec.ofNat 8 (0x80 + cp % 64) :: bytes) = some (cp, 2) := by
  have hvalue : ((0xE0 + cp / 4096) % 16 * 64 + (0x80 + cp / 64 % 64) % 64) * 64 + (0x80 + cp % 64) % 64 = cp := by
    omega
  rw [utf8Head_ofNat hrow hc (by omega), utf8Tail_cons_ofNat hb (by omega),
    utf8Tail_cons_ofNat (by omega) (by omega), utf8Tail, hvalue]
  rfl

/-- A row of four-byte sequences reads those of its range. -/
theorem utf8Head_four {lo hi lo' hi' cp : Nat}
    (hrow : ⟨lo, hi, 0x07, [(lo', hi'), (0x80, 0xBF), (0x80, 0xBF)]⟩ ∈ utf8Table)
    (hcp : cp < 0x110000) (hc : lo ≤ 0xF0 + cp / 262144 ∧ 0xF0 + cp / 262144 ≤ hi)
    (hb : lo' ≤ 0x80 + cp / 4096 % 64 ∧ 0x80 + cp / 4096 % 64 ≤ hi') (bytes : List Byte) :
    utf8Head (BitVec.ofNat 8 (0xF0 + cp / 262144))
      (BitVec.ofNat 8 (0x80 + cp / 4096 % 64) :: BitVec.ofNat 8 (0x80 + cp / 64 % 64) ::
        BitVec.ofNat 8 (0x80 + cp % 64) :: bytes) = some (cp, 3) := by
  have hvalue : (((0xF0 + cp / 262144) % 8 * 64 + (0x80 + cp / 4096 % 64) % 64) * 64 +
      (0x80 + cp / 64 % 64) % 64) * 64 + (0x80 + cp % 64) % 64 = cp := by omega
  rw [utf8Head_ofNat hrow hc (by omega), utf8Tail_cons_ofNat hb (by omega),
    utf8Tail_cons_ofNat (by omega) (by omega), utf8Tail_cons_ofNat (by omega) (by omega), utf8Tail, hvalue]
  rfl

/-- The table reads every scalar's sequence (30_encoding R97). -/
theorem utf8Head_complete {cp : Nat} (h : isScalar cp = true) :
    ∃ c tail, utf8Bytes cp = c :: tail ∧ ∀ bytes, utf8Head c (tail ++ bytes) = some (cp, tail.length) := by
  rw [isScalar_iff] at h
  unfold utf8Bytes
  split
  · refine ⟨_, _, rfl, fun bytes => ?_⟩
    rw [utf8Head_ofNat (row := ⟨0x00, 0x7F, 0x7F, []⟩) (by decide) (by simp only; omega) (by omega), utf8Tail,
      Nat.mod_eq_of_lt (by simp only; omega)]
    rfl
  split
  · have hvalue : (0xC0 + cp / 64) % 32 * 64 + (0x80 + cp % 64) % 64 = cp := by omega
    refine ⟨_, _, rfl, fun bytes => ?_⟩
    rw [utf8Head_ofNat (row := ⟨0xC2, 0xDF, 0x1F, [(0x80, 0xBF)]⟩) (by decide) (by simp only; omega) (by omega),
      List.singleton_append, utf8Tail_cons_ofNat (by omega) (by omega), utf8Tail, hvalue]
    rfl
  split
  · refine ⟨_, _, rfl, ?_⟩
    have hrows : cp < 0x1000 ∨ (0x1000 ≤ cp ∧ cp < 0xD000) ∨ (0xD000 ≤ cp ∧ cp < 0xD800) ∨ 0xE000 ≤ cp := by omega
    rcases hrows with hcp | hcp | hcp | hcp
    · exact utf8Head_three (lo := 0xE0) (hi := 0xE0) (lo' := 0xA0) (hi' := 0xBF) (by decide) (by omega) (by omega)
        (by omega)
    · exact utf8Head_three (lo := 0xE1) (hi := 0xEC) (lo' := 0x80) (hi' := 0xBF) (by decide) (by omega) (by omega)
        (by omega)
    · exact utf8Head_three (lo := 0xED) (hi := 0xED) (lo' := 0x80) (hi' := 0x9F) (by decide) (by omega) (by omega)
        (by omega)
    · exact utf8Head_three (lo := 0xEE) (hi := 0xEF) (lo' := 0x80) (hi' := 0xBF) (by decide) (by omega) (by omega)
        (by omega)
  · refine ⟨_, _, rfl, ?_⟩
    have hrows : cp < 0x40000 ∨ (0x40000 ≤ cp ∧ cp < 0x100000) ∨ 0x100000 ≤ cp := by omega
    rcases hrows with hcp | hcp | hcp
    · exact utf8Head_four (lo := 0xF0) (hi := 0xF0) (lo' := 0x90) (hi' := 0xBF) (by decide) (by omega) (by omega)
        (by omega)
    · exact utf8Head_four (lo := 0xF1) (hi := 0xF3) (lo' := 0x80) (hi' := 0xBF) (by decide) (by omega) (by omega)
        (by omega)
    · exact utf8Head_four (lo := 0xF4) (hi := 0xF4) (lo' := 0x80) (hi' := 0x8F) (by decide) (by omega) (by omega)
        (by omega)

/-! ### A text -/

/-- The characters of a text with their offsets, the first at `off`. -/
def charsAt (off : Nat) : List Nat → List Utf8Char
  | [] => []
  | cp :: rest => ⟨cp, off⟩ :: charsAt (off + (utf8Bytes cp).length) rest

@[simp] theorem charsAt_nil (off : Nat) : charsAt off [] = [] := rfl

@[simp] theorem charsAt_cons (off cp : Nat) (chars : List Nat) :
    charsAt off (cp :: chars) = ⟨cp, off⟩ :: charsAt (off + (utf8Bytes cp).length) chars := rfl

@[simp] theorem utf8Text_nil : utf8Text [] = [] := rfl

@[simp] theorem utf8Text_cons (cp : Nat) (chars : List Nat) : utf8Text (cp :: chars) = utf8Bytes cp ++ utf8Text chars :=
  rfl

@[simp] theorem utf8Text_append (chars more : List Nat) : utf8Text (chars ++ more) = utf8Text chars ++ utf8Text more :=
  List.flatMap_append

theorem charsAt_append (off : Nat) (chars more : List Nat) :
    charsAt off (chars ++ more) = charsAt off chars ++ charsAt (off + (utf8Text chars).length) more := by
  induction chars generalizing off with
  | nil => rfl
  | cons cp chars ih => simp [ih, Nat.add_assoc]

@[simp] theorem charsAt_map_cp (off : Nat) (chars : List Nat) : (charsAt off chars).map Utf8Char.cp = chars := by
  induction chars generalizing off with
  | nil => rfl
  | cons cp chars ih => simp [ih]

theorem utf8DecFrom_append_of_skip (pre bytes : List Byte) (off : Nat) :
    utf8DecFrom (pre ++ bytes) off pre.length = utf8DecFrom bytes (off + pre.length) 0 := by
  induction pre generalizing off with
  | nil => rfl
  | cons b pre ih =>
    rw [List.cons_append, List.length_cons, utf8DecFrom, ih]
    congr 1
    omega

/-- The decoder reads a text's characters, then goes on with the bytes after it (30_encoding R97). -/
theorem utf8DecFrom_utf8Text {chars : List Nat} (h : ∀ cp ∈ chars, isScalar cp = true) (bytes : List Byte) (off : Nat) :
    utf8DecFrom (utf8Text chars ++ bytes) off 0 =
      (utf8DecFrom bytes (off + (utf8Text chars).length) 0).map (charsAt off chars ++ ·) := by
  induction chars generalizing off with
  | nil =>
    rw [utf8Text_nil, List.nil_append, List.length_nil, Nat.add_zero]
    cases utf8DecFrom bytes off 0 <;> rfl
  | cons cp chars ih =>
    obtain ⟨hcp, hchars⟩ := List.forall_mem_cons.1 h
    obtain ⟨c, tail, hbytes, hhead⟩ := utf8Head_complete hcp
    have hlen : (utf8Bytes cp).length = tail.length + 1 := by rw [hbytes, List.length_cons]
    rw [utf8Text_cons, List.append_assoc, hbytes, List.cons_append, utf8DecFrom, hhead]
    simp only [utf8DecFrom_append_of_skip, ih hchars]
    rw [List.length_append, List.length_cons, charsAt_cons, hlen]
    rw [show off + 1 + tail.length = off + (tail.length + 1) by omega, Nat.add_assoc off]
    cases utf8DecFrom bytes (off + (tail.length + 1 + (utf8Text chars).length)) 0 <;> rfl

/-- A text decodes to its characters (30_encoding R97). -/
theorem utf8Dec_utf8Text {chars : List Nat} (h : ∀ cp ∈ chars, isScalar cp = true) (base : Nat) :
    utf8Dec (utf8Text chars) base = .ok (charsAt base chars) := by
  have hdec := utf8DecFrom_utf8Text h [] base
  rw [List.append_nil] at hdec
  rw [utf8Dec, hdec, utf8DecFrom]
  simp [Except.map]

/-- The bytes start with no character's sequence. -/
def IllFormed (bad : List Byte) : Prop := bad ≠ [] ∧ ∀ cp, isScalar cp = true → ¬(utf8Bytes cp <+: bad)

theorem illFormed_cons_iff {b : Byte} {bytes : List Byte} : IllFormed (b :: bytes) ↔ utf8Head b bytes = none := by
  constructor
  · intro h
    by_contra hhead
    obtain ⟨found, hfound⟩ := Option.ne_none_iff_exists'.1 hhead
    obtain ⟨hcp, tail, bytes', hseq, rfl, -⟩ := utf8Head_sound hfound
    exact h.2 _ hcp ⟨bytes', by rw [hseq, List.cons_append]⟩
  · intro hhead
    refine ⟨List.cons_ne_nil _ _, fun cp hcp hprefix => ?_⟩
    obtain ⟨c, tail, hseq, hfound⟩ := utf8Head_complete hcp
    obtain ⟨rest, hrest⟩ := hprefix
    rw [hseq, List.cons_append, List.cons.injEq] at hrest
    obtain ⟨rfl, rfl⟩ := hrest
    cases hhead.symm.trans (hfound rest)

/-- Ill-formed bytes after a text raise `TREE_UTF8` at the first of them (30_encoding R97). -/
theorem utf8Dec_of_illFormed {chars : List Nat} (h : ∀ cp ∈ chars, isScalar cp = true) {bad : List Byte}
    (hbad : IllFormed bad) (base : Nat) :
    utf8Dec (utf8Text chars ++ bad) base = raise .treeUtf8 (base + (utf8Text chars).length) := by
  cases bad with
  | nil => exact absurd rfl hbad.1
  | cons b bytes =>
    rw [utf8Dec, utf8DecFrom_utf8Text h, utf8DecFrom, illFormed_cons_iff.1 hbad]
    rfl

/-- Bytes are a text, or a text and then ill-formed bytes. -/
theorem exists_utf8Text_append (S : List Byte) :
    ∃ chars bad, S = utf8Text chars ++ bad ∧ (∀ cp ∈ chars, isScalar cp = true) ∧ (bad = [] ∨ IllFormed bad) := by
  induction h : S.length using Nat.strong_induction_on generalizing S with
  | _ n ih =>
  subst h
  cases S with
  | nil => exact ⟨[], [], rfl, by simp, .inl rfl⟩
  | cons b bytes =>
    cases hhead : utf8Head b bytes with
    | none => exact ⟨[], b :: bytes, rfl, by simp, .inr (illFormed_cons_iff.2 hhead)⟩
    | some found =>
      obtain ⟨hcp, tail, bytes', hseq, rfl, -⟩ := utf8Head_sound hhead
      obtain ⟨chars, bad, hS, hchars, hbad⟩ := ih bytes'.length (by simp) bytes' rfl
      refine ⟨found.1 :: chars, bad, ?_, List.forall_mem_cons.2 ⟨hcp, hchars⟩, hbad⟩
      rw [utf8Text_cons, hseq, hS, List.append_assoc, List.cons_append]
end Sys2Proof.Machine

/-! ## A forest of subtrees (42_serializer R143)

`Parse` recurses where `readText` counts the subtrees still to read. Between them stands a parser of a number of
subtrees, one after the other, which takes one node at a time as `readText` does. -/

namespace Sys2Proof.Machine

/-! ### One node of `Parse` -/

section
variable {stop fuel k : Nat} {c : Utf8Char} {t : List Utf8Char}

theorem parseTree_nil : parseTree stop fuel [] k = raise .treeExhausted stop := by
  cases fuel <;> rfl

theorem parseTree_marker (h0 : c.cp ≠ 0x30) (h1 : c.cp ≠ 0x31) :
    parseTree stop (fuel + 1) (c :: t) k = raise .treeMarker c.off := by
  unfold parseTree
  rw [if_pos ⟨h0, h1⟩]

theorem parseTree_overflow (hc : c.cp = 0x30 ∨ c.cp = 0x31) :
    parseTree stop (fuel + 1) (c :: t) Config.maxNodes = raise .treeOverflow c.off := by
  unfold parseTree
  rw [if_neg (by tauto), if_pos rfl]

theorem parseTree_leaf_nil (hc : c.cp = 0x31) (hk : k ≠ Config.maxNodes) :
    parseTree stop (fuel + 1) [c] k = raise .treeExhausted stop := by
  unfold parseTree
  rw [if_neg (by tauto), if_neg hk, if_pos hc]

theorem parseTree_leaf (hc : c.cp = 0x31) (hk : k ≠ Config.maxNodes) (sym : Utf8Char) :
    parseTree stop (fuel + 1) (c :: sym :: t) k = .ok ⟨[.leaf (BitVec.ofNat 8 (sym.cp % 256)) 0], t⟩ := by
  unfold parseTree
  rw [if_neg (by tauto), if_neg hk, if_pos hc]

/-- The internal node at index `k` of a tree in pre-order, its left subtree of `n` nodes. -/
def innerNode (k n : Nat) : Node := .internal 0 (BitVec.ofNat 9 (k + 1)) (BitVec.ofNat 9 (k + 1 + n))

/-- The subtree at index `k` over two parsed subtrees. -/
def Parsed.join (k : Nat) (l r : Parsed) : Parsed := ⟨innerNode k l.nodes.length :: (l.nodes ++ r.nodes), r.rest⟩

theorem parseTree_inner (hc : c.cp = 0x30) (hk : k ≠ Config.maxNodes) :
    parseTree stop (fuel + 1) (c :: t) k =
      parseTree stop fuel t (k + 1) >>= fun l =>
        (parseTree stop fuel l.rest (k + 1 + l.nodes.length)).map (l.join k) := by
  conv_lhs => unfold parseTree
  rw [if_neg (by tauto), if_neg hk, if_neg (by omega)]
  cases parseTree stop fuel t (k + 1) with
  | error e => rfl
  | ok l =>
    simp only [Run.ok_bind]
    cases parseTree stop fuel l.rest (k + 1 + l.nodes.length) <;> rfl

end

/-! ### The parser's fuel -/

theorem parseTree_consumes {stop fuel : Nat} {t : List Utf8Char} {k : Nat} {p : Parsed}
    (h : parseTree stop fuel t k = .ok p) : p.rest.length < t.length := by
  induction fuel generalizing t k p with
  | zero => simp [parseTree, raise] at h
  | succ fuel ih =>
    rcases t with _ | ⟨c, t⟩
    · simp [parseTree, raise] at h
    unfold parseTree at h
    split at h
    · simp [raise] at h
    split at h
    · simp [raise] at h
    split at h
    · rcases t with _ | ⟨sym, t⟩
      · simp [raise] at h
      cases h
      simp only [List.length_cons]
      omega
    · simp only [Run.bind_eq_ok] at h
      obtain ⟨l, hl, r, hr, hp⟩ := h
      cases hp
      have := ih hl
      have := ih hr
      simp only [List.length_cons]
      omega

/-- Fuel for each character is enough: more makes no difference. -/
theorem parseTree_fuel {stop fuel : Nat} {t : List Utf8Char} {k : Nat} (h : t.length ≤ fuel) :
    parseTree stop fuel t k = parseTree stop t.length t k := by
  induction fuel using Nat.strong_induction_on generalizing t k with
  | _ fuel ih =>
  rcases t with _ | ⟨c, t⟩
  · rw [parseTree_nil, parseTree_nil]
  · obtain ⟨fuel, rfl⟩ : ∃ m, fuel = m + 1 := ⟨fuel - 1, by simp only [List.length_cons] at h; omega⟩
    rw [List.length_cons] at h ⊢
    have hlt : t.length ≤ fuel := by omega
    unfold parseTree
    rw [ih fuel (by omega) hlt]
    cases hl : parseTree stop t.length t (k + 1) with
    | error e => rfl
    | ok l =>
      have := parseTree_consumes hl
      simp only [Run.ok_bind]
      rw [ih fuel (by omega) (by omega), ih t.length (by omega) (by omega)]

/-! ### A forest -/

/-- Parsed subtrees: the next free index, the leaf symbols, and the characters left. -/
structure ForestRead where
  next : Nat
  symbols : List Byte
  rest : List Utf8Char

/-- What is read of a parsed subtree whose first node has index `k`. -/
def Parsed.read (p : Parsed) (k : Nat) : ForestRead := ⟨k + p.nodes.length, leafSymbols p.nodes, p.rest⟩

/-- Leaf symbols read before. -/
def ForestRead.after (syms : List Byte) (r : ForestRead) : ForestRead := { r with symbols := syms ++ r.symbols }

/-- A number of subtrees parsed one after the other, the first node at index `k`. -/
def parseForest (stop : Nat) : Nat → List Utf8Char → Nat → Run ForestRead
  | 0, t, k => .ok ⟨k, [], t⟩
  | m + 1, t, k => do
    let l ← parseTree stop t.length t k
    (parseForest stop m l.rest (k + l.nodes.length)).map (·.after (leafSymbols l.nodes))

theorem leafSymbols_append (a b : List Node) : leafSymbols (a ++ b) = leafSymbols a ++ leafSymbols b :=
  List.filterMap_append

theorem leafSymbols_innerNode_cons (k n : Nat) (nodes : List Node) :
    leafSymbols (innerNode k n :: nodes) = leafSymbols nodes := rfl

section
variable {stop m k : Nat} {c : Utf8Char} {t : List Utf8Char}

/-- A forest of one tree. -/
theorem parseForest_one : parseForest stop 1 t k = (parseTree stop t.length t k).map (·.read k) := by
  rw [parseForest]
  cases parseTree stop t.length t k <;> simp [parseForest, Except.map, ForestRead.after, Parsed.read]

theorem parseForest_nil : parseForest stop (m + 1) [] k = raise .treeExhausted stop := rfl

theorem parseForest_marker (h0 : c.cp ≠ 0x30) (h1 : c.cp ≠ 0x31) :
    parseForest stop (m + 1) (c :: t) k = raise .treeMarker c.off := by
  rw [parseForest, List.length_cons, parseTree_marker h0 h1]
  rfl

theorem parseForest_overflow (hc : c.cp = 0x30 ∨ c.cp = 0x31) :
    parseForest stop (m + 1) (c :: t) Config.maxNodes = raise .treeOverflow c.off := by
  rw [parseForest, List.length_cons, parseTree_overflow hc]
  rfl

theorem parseForest_leaf_nil (hc : c.cp = 0x31) (hk : k ≠ Config.maxNodes) :
    parseForest stop (m + 1) [c] k = raise .treeExhausted stop := by
  rw [parseForest, List.length_singleton, parseTree_leaf_nil hc hk]
  rfl

theorem parseForest_leaf (hc : c.cp = 0x31) (hk : k ≠ Config.maxNodes) (sym : Utf8Char) :
    parseForest stop (m + 1) (c :: sym :: t) k =
      (parseForest stop m t (k + 1)).map (·.after [BitVec.ofNat 8 sym.cp]) := by
  have hsym : BitVec.ofNat 8 (sym.cp % 256) = BitVec.ofNat 8 sym.cp := by simp [← BitVec.toNat_inj]
  rw [parseForest, List.length_cons, parseTree_leaf hc hk, hsym]
  rfl

/-- An internal node's marker puts its two subtrees in its place. -/
theorem parseForest_inner (hc : c.cp = 0x30) (hk : k ≠ Config.maxNodes) :
    parseForest stop (m + 1) (c :: t) k = parseForest stop (m + 2) t (k + 1) := by
  rw [parseForest, List.length_cons, parseTree_inner hc hk, parseForest]
  cases hl : parseTree stop t.length t (k + 1) with
  | error e => rfl
  | ok l =>
    have := parseTree_consumes hl
    simp only [Run.ok_bind]
    rw [parseForest, parseTree_fuel (by omega)]
    cases hr : parseTree stop l.rest.length l.rest (k + 1 + l.nodes.length) with
    | error e => rfl
    | ok r =>
      simp only [Run.ok_bind, Except.map, Parsed.join, List.length_cons, List.length_append]
      rw [show k + (l.nodes.length + r.nodes.length + 1) = k + 1 + l.nodes.length + r.nodes.length by omega]
      cases parseForest stop m r.rest (k + 1 + l.nodes.length + r.nodes.length) with
      | error e => rfl
      | ok q => simp [ForestRead.after, leafSymbols_innerNode_cons, leafSymbols_append]

end

/-! ### `readText`, one node at a time -/

section
variable {m n : Nat}

@[simp] theorem readText_nil : readText m n [] = some (m, n) := readText.eq_1 m n

@[simp] theorem readText_zero_cons (c : Nat) (rest : List Nat) : readText 0 n (c :: rest) = none :=
  readText.eq_2 n c rest

@[simp] theorem readText_inner_cons (rest : List Nat) :
    readText (m + 1) n (0x30 :: rest) = readText (m + 2) (n + 1) rest := by
  cases rest <;> simp [readText]

@[simp] theorem readText_leaf_cons (sym : Nat) (rest : List Nat) :
    readText (m + 1) n (0x31 :: sym :: rest) = readText m (n + 1) rest := by
  simp [readText]

@[simp] theorem readText_leaf_nil : readText (m + 1) n [0x31] = none := by
  simp [readText]

theorem readText_marker {c : Nat} (h0 : c ≠ 0x30) (h1 : c ≠ 0x31) (rest : List Nat) :
    readText (m + 1) n (c :: rest) = none := by
  cases rest <;> simp [readText, h0, h1]

end

@[simp] theorem textSymbols_nil : textSymbols [] = [] := rfl

@[simp] theorem textSymbols_inner_cons (rest : List Nat) : textSymbols (0x30 :: rest) = textSymbols rest := by
  cases rest <;> simp [textSymbols]

@[simp] theorem textSymbols_leaf_cons (sym : Nat) (rest : List Nat) :
    textSymbols (0x31 :: sym :: rest) = sym :: textSymbols rest := by
  simp [textSymbols]

theorem readText_le {m n m' n' : Nat} {chars : List Nat} (h : readText m n chars = some (m', n')) : n ≤ n' := by
  induction m, n, chars using readText.induct with
  | case1 m n => simp_all
  | case2 n c rest => simp at h
  | case3 n rest m ih => have := ih (by simpa using h); omega
  | case4 n m hc => simp at h
  | case5 n m sym rest hc ih => have := ih (by simpa using h); omega
  | case6 n c rest m h0 h1 => simp [readText_marker h0 h1] at h

/-- The parser follows `readText`: after the same characters it has as many subtrees still to read. -/
theorem parseForest_of_readText {stop m k m' k' : Nat} {before : List Nat} (h : readText m k before = some (m', k'))
    (hk : k' ≤ Config.maxNodes) (off : Nat) (rest : List Utf8Char) :
    parseForest stop m (charsAt off before ++ rest) k =
      (parseForest stop m' rest k').map (·.after ((textSymbols before).map (BitVec.ofNat 8))) := by
  induction m, k, before using readText.induct generalizing off with
  | case1 m k =>
    obtain ⟨rfl, rfl⟩ : m = m' ∧ k = k' := by simpa using h
    rw [charsAt_nil, List.nil_append]
    cases parseForest stop m rest k <;> rfl
  | case2 k c chars => simp at h
  | case3 k chars m ih =>
    rw [Nat.succ_eq_add_one, readText_inner_cons] at h
    have hle := readText_le h
    rw [charsAt_cons, List.cons_append, parseForest_inner rfl (by omega), ih h, textSymbols_inner_cons]
  | case4 k m hc => simp at h
  | case5 k m sym chars hc ih =>
    rw [Nat.succ_eq_add_one, readText_leaf_cons] at h
    have hle := readText_le h
    simp only [charsAt_cons, List.cons_append, textSymbols_leaf_cons]
    rw [parseForest_leaf rfl (by omega), ih h]
    cases parseForest stop m' rest k' <;> rfl
  | case6 k c chars m h0 h1 => simp [readText_marker h0 h1] at h

/-- How far a reading goes: to the end; to a leaf's marker at the end; to a character where no subtree is due, that is
no marker, or that stands after 511 nodes. -/
inductive Reading (m n : Nat) (chars : List Nat) : Prop where
  | whole (m' n' : Nat) (h : readText m n chars = some (m', n')) (hn : n' ≤ 511)
  | noSymbol (before : List Nat) (k n' : Nat) (hchars : chars = before ++ [0x31])
      (h : readText m n before = some (k + 1, n')) (hn : n' < 511)
  | stops (before : List Nat) (c : Nat) (more : List Nat) (m' n' : Nat) (hchars : chars = before ++ c :: more)
      (h : readText m n before = some (m', n')) (hn : n' ≤ 511)
      (hc : m' = 0 ∨ (c ≠ 0x30 ∧ c ≠ 0x31) ∨ n' = 511)

/-- A reading of a node and what follows goes as far as that of what follows. -/
theorem Reading.append {m n m' n' : Nat} {node chars : List Nat} (h : Reading m' n' chars)
    (hnode : ∀ rest, readText m n (node ++ rest) = readText m' n' rest) : Reading m n (node ++ chars) := by
  cases h with
  | whole j l h hn => exact .whole j l ((hnode _).trans h) hn
  | noSymbol before k l hchars h hn =>
    exact .noSymbol (node ++ before) k l (by rw [hchars, List.append_assoc]) ((hnode _).trans h) hn
  | stops before c more j l hchars h hn hc =>
    exact .stops (node ++ before) c more j l (by rw [hchars, List.append_assoc]) ((hnode _).trans h) hn hc

theorem reading_total {m n : Nat} (hn : n ≤ 511) (chars : List Nat) : Reading m n chars := by
  have here : ∀ {m n c rest}, n ≤ 511 → m = 0 ∨ (c ≠ 0x30 ∧ c ≠ 0x31) ∨ n = 511 → Reading m n (c :: rest) :=
    fun hn hc => .stops [] _ _ _ _ rfl readText_nil hn hc
  induction m, n, chars using readText.induct with
  | case1 m n => exact .whole m n readText_nil hn
  | case2 n c rest => exact here hn (.inl rfl)
  | case3 n rest m ih =>
    rcases hn.lt_or_eq with hlt | rfl
    · exact (ih hlt).append (node := [0x30]) readText_inner_cons
    · exact here hn (.inr (.inr rfl))
  | case4 n m hc =>
    rcases hn.lt_or_eq with hlt | rfl
    · exact .noSymbol [] m n rfl readText_nil hlt
    · exact here hn (.inr (.inr rfl))
  | case5 n m sym rest hc ih =>
    rcases hn.lt_or_eq with hlt | rfl
    · exact (ih hlt).append (node := [0x31, sym]) (readText_leaf_cons sym)
    · exact here hn (.inr (.inr rfl))
  | case6 n c rest m h0 h1 => exact here hn (.inr (.inl ⟨h0, h1⟩))

end Sys2Proof.Machine

/-! ## `Deser` of every source (42_serializer R143) -/

namespace Sys2Proof.Machine

/-- Every source is the text of one whole tree of at most 511 nodes, or has an error. -/
theorem textAccepted_or_textError (S : List Byte) (base : Nat) :
    (∃ chars n, TextAccepted S chars n) ∨ ∃ code pos, TextError S base code pos := by
  obtain ⟨chars, bad, rfl, hchars, rfl | hbad⟩ := exists_utf8Text_append S
  · rw [List.append_nil]
    cases reading_total (m := 1) (n := 0) (by omega) chars with
    | whole m n h hn =>
      cases m with
      | zero => exact .inl ⟨chars, n, rfl, hchars, h, hn⟩
      | succ k => exact .inr ⟨_, _, .exhausted chars k n rfl hchars h hn⟩
    | noSymbol before k n hb h hn =>
      exact .inr ⟨_, _, .noSymbol before k n (by rw [hb])
        (fun cp hcp => hchars cp (hb ▸ List.mem_append_left _ hcp)) h hn⟩
    | stops before c more m n hb h hn hc =>
      subst hb
      have hstop : TextStopsAt (utf8Text (before ++ c :: more)) before c m n := ⟨more, rfl, hchars, h, hn⟩
      cases m with
      | zero => exact .inr ⟨_, _, .trailing before c n hstop⟩
      | succ k =>
        by_cases hmark : c = 0x30 ∨ c = 0x31
        · obtain rfl : n = 511 := by omega
          exact .inr ⟨_, _, .overflow before c k hstop hmark⟩
        · exact .inr ⟨_, _, .marker before c k n hstop (by tauto) (by tauto)⟩
  · exact .inr ⟨_, _, .utf8 chars bad rfl hchars hbad.1 hbad.2⟩

theorem TextError.pos_le {S : List Byte} {base pos : Nat} {code : Byte} (h : TextError S base code pos) :
    pos ≤ base + S.length := by
  cases h with
  | utf8 chars bad hS => simp [hS]
  | exhausted => exact le_refl _
  | noSymbol => exact le_refl _
  | marker before c k n hS => obtain ⟨more, rfl, -⟩ := hS; simp
  | trailing before c n hS => obtain ⟨more, rfl, -⟩ := hS; simp
  | overflow before c k hS => obtain ⟨more, rfl, -⟩ := hS; simp

section
variable {before more : List Nat} {base m n : Nat}

/-- What the parser does with a text whose first part `readText` reads. -/
theorem parseForest_text (hread : readText 1 0 before = some (m, n)) (hn : n ≤ 511) (stop : Nat) :
    parseForest stop 1 (charsAt base (before ++ more)) 0 =
      (parseForest stop m (charsAt (base + (utf8Text before).length) more) n).map
        (·.after ((textSymbols before).map (BitVec.ofNat 8))) := by
  rw [charsAt_append, parseForest_of_readText hread hn]

/-- An error met after the part of a text that `readText` reads. -/
theorem deser_text_error (hchars : ∀ cp ∈ before ++ more, isScalar cp = true)
    (hread : readText 1 0 before = some (m, n)) (hn : n ≤ 511) {e : ErrorCode} {pos : Nat}
    (h : parseForest (base + (utf8Text (before ++ more)).length) m (charsAt (base + (utf8Text before).length) more) n =
      raise e pos) :
    deser (utf8Text (before ++ more)) base = raise e pos := by
  have hforest := parseForest_text (base := base) (more := more) hread hn (base + (utf8Text (before ++ more)).length)
  rw [h, parseForest_one] at hforest
  rw [deser, utf8Dec_utf8Text hchars, Run.ok_bind]
  cases hp : parseTree (base + (utf8Text (before ++ more)).length) (charsAt base (before ++ more)).length
    (charsAt base (before ++ more)) 0 with
  | error e' =>
    rw [hp] at hforest
    cases hforest
    rfl
  | ok p =>
    rw [hp] at hforest
    cases hforest

/-- A whole tree, and the characters after it. -/
theorem deser_text_whole (hchars : ∀ cp ∈ before ++ more, isScalar cp = true)
    (hread : readText 1 0 before = some (0, n)) (hn : n ≤ 511) :
    ∃ nodes, nodes.length = n ∧ leafSymbols nodes = (textSymbols before).map (BitVec.ofNat 8) ∧
      deser (utf8Text (before ++ more)) base =
        match more with
        | [] => .ok nodes
        | _ :: _ => raise .treeTrailing (base + (utf8Text before).length) := by
  have hforest := parseForest_text (base := base) (more := more) hread hn (base + (utf8Text (before ++ more)).length)
  rw [parseForest_one] at hforest
  rw [deser, utf8Dec_utf8Text hchars, Run.ok_bind]
  cases hp : parseTree (base + (utf8Text (before ++ more)).length) (charsAt base (before ++ more)).length
    (charsAt base (before ++ more)) 0 with
  | error e =>
    rw [hp] at hforest
    cases hforest
  | ok p =>
    rw [hp] at hforest
    simp only [Except.map, parseForest, Parsed.read, ForestRead.after, Except.ok.injEq, ForestRead.mk.injEq,
      List.append_nil, Nat.zero_add] at hforest
    obtain ⟨hlen, hsyms, hrest⟩ := hforest
    refine ⟨p.nodes, hlen, hsyms, ?_⟩
    rw [Run.ok_bind, hrest]
    cases more <;> rfl

end

/-- A text of one whole tree of at most 511 nodes is accepted (42_serializer R143). -/
theorem TextAccepted.deser_eq {S : List Byte} {chars : List Nat} {n : Nat} (h : TextAccepted S chars n) (base : Nat) :
    ∃ nodes, deser S base = .ok nodes ∧ nodes.length = n ∧
      leafSymbols nodes = (textSymbols chars).map (BitVec.ofNat 8) := by
  obtain ⟨rfl, hchars, hread, hn⟩ := h
  obtain ⟨nodes, hlen, hsyms, hdeser⟩ := deser_text_whole (more := []) (base := base) (by simpa using hchars) hread hn
  exact ⟨nodes, by simpa using hdeser, hlen, hsyms⟩

/-- `Deser` raises the error of the source at its offset (42_serializer R143). -/
theorem TextError.deser_eq {S : List Byte} {base pos : Nat} {code : Byte} (h : TextError S base code pos) :
    ∃ e : ErrorCode, e.value = code ∧ deser S base = raise e pos := by
  cases h with
  | utf8 chars bad hS hchars hne hbad =>
    subst hS
    exact ⟨.treeUtf8, rfl, by rw [deser, utf8Dec_of_illFormed hchars ⟨hne, hbad⟩]; rfl⟩
  | exhausted chars k n hS hchars hread hn =>
    subst hS
    have hdeser := deser_text_error (more := []) (base := base) (by simpa using hchars) hread hn parseForest_nil
    exact ⟨.treeExhausted, rfl, by simpa only [List.append_nil] using hdeser⟩
  | noSymbol before k n hS hchars hread hn =>
    subst hS
    refine ⟨.treeExhausted, rfl, deser_text_error ?_ hread (by omega) (parseForest_leaf_nil rfl ?_)⟩
    · simpa [or_imp, forall_and] using ⟨hchars, by decide⟩
    · simp only [Config.maxNodes]; omega
  | marker before c k n hS h0 h1 =>
    obtain ⟨more, rfl, hchars, hread, hn⟩ := hS
    exact ⟨.treeMarker, rfl, deser_text_error hchars hread hn (parseForest_marker h0 h1)⟩
  | trailing before c n hS =>
    obtain ⟨more, rfl, hchars, hread, hn⟩ := hS
    obtain ⟨nodes, -, -, hdeser⟩ := deser_text_whole (base := base) hchars hread hn
    exact ⟨.treeTrailing, rfl, hdeser⟩
  | overflow before c k hS hc =>
    obtain ⟨more, rfl, hchars, hread, hn⟩ := hS
    exact ⟨.treeOverflow, rfl, deser_text_error hchars hread hn (parseForest_overflow hc)⟩

/-! ### DESERIALIZE -/

theorem exec_deserialize_eq {s : State} {S : List Byte} (hrun : CanRun .deserialize s) (hS : s.snap = some S) :
    exec .deserialize s = completeRun (cmdInfo .deserialize) s (deserializeBody s S) := by
  rw [exec_eq_completeRun hrun.1 hrun.2, hS]
  rfl

theorem exec_deserialize_of_ok {s : State} {S : List Byte} {nodes : List Node} (hrun : CanRun .deserialize s)
    (hS : s.snap = some S) (h : deser S 0 = .ok nodes) :
    exec .deserialize s = .next (((s.setTree nodes 0).clearCT).completeOk []) := by
  rw [exec_deserialize_eq hrun hS, deserializeBody, h]
  rfl

theorem exec_deserialize_of_error {s : State} {S : List Byte} {e : ErrorCode} {pos : Nat} (hrun : CanRun .deserialize s)
    (hS : s.snap = some S) (h : deser S 0 = raise e pos) :
    exec .deserialize s = .next (s.completeError (cmdInfo .deserialize) e pos) := by
  rw [exec_deserialize_eq hrun hS, deserializeBody, h]
  rfl

/-- An error of a source clears the tree and the code table (42_serializer R142). -/
theorem exec_deserialize_of_textError {s : State} {S : List Byte} {code : Byte} {pos : Nat} (hS : SourceIs s S)
    (hrun : CanRun .deserialize s) (h : TextError S 0 code pos) :
    ∃ t, exec .deserialize s = .next t ∧ t.completedWith 0 code pos ∧ TreeCleared t ∧ CodeTableCleared t ∧
      t.freq = s.freq ∧ t.pad = s.pad ∧ t.mem = s.mem := by
  obtain ⟨e, rfl, hdeser⟩ := h.deser_eq
  have hpos : (BitVec.ofNat 32 pos).toNat = pos := by
    have := h.pos_le
    have := hS.length_lt
    rw [BitVec.toNat_ofNat]
    omega
  exact ⟨_, exec_deserialize_of_error hrun hS.1 hdeser, ⟨rfl, rfl, hpos, rfl, rfl, rfl, rfl⟩, ⟨rfl, rfl⟩,
    codeTableCleared_of_eq rfl rfl, rfl, rfl, rfl⟩

/-- Settles O38: the text read as far as it goes, then what `Parse` does at the next character. -/
theorem deserializeErrors : Obligations.DeserializeErrors := by
  intro s S hS hrun
  refine ⟨fun chars n h => ?_, fun code pos h => exec_deserialize_of_textError hS hrun h, ?_, ?_⟩
  · obtain ⟨nodes, hdeser, hlen, hsyms⟩ := h.deser_eq 0
    exact ⟨_, exec_deserialize_of_ok hrun hS.1 hdeser, ⟨rfl, rfl, rfl, rfl, rfl, rfl, rfl⟩, (deser_arenaOk hdeser).1,
      hlen, hsyms⟩
  · refine (textAccepted_or_textError S 0).imp_right ?_
    rintro ⟨code, pos, h⟩
    exact ⟨code, pos, h, by simpa using h.pos_le⟩
  · rintro rfl
    have hempty : TextError [] 0 0x22#8 0 := .exhausted [] 0 0 rfl (by simp) readText_nil (by omega)
    obtain ⟨t, ht, hdone, -⟩ := exec_deserialize_of_textError hS hrun hempty
    exact ⟨t, ht, hdone⟩

end Sys2Proof.Machine

/-! ## The text of a tree (42_serializer R141) -/

namespace Sys2Proof.Machine

/-- The characters of a tree's text: marker and symbol, or marker, left, right (42_serializer R141). -/
def Tree.chars : Tree → List Nat
  | .leaf _ sym => [0x31, sym.toNat]
  | .node _ l r => 0x30 :: (l.chars ++ r.chars)

/-- `Utf8Enc` of a symbol is its sequence in the table (30_encoding R96, R97). -/
theorem utf8Enc_eq (sym : Byte) : utf8Enc sym = utf8Bytes sym.toNat := by
  have := sym.isLt
  unfold utf8Enc utf8Bytes
  by_cases h : sym.toNat ≤ 0x7F
  · rw [if_pos h, if_pos (by omega), BitVec.ofNat_toNat, BitVec.setWidth_eq]
  · rw [if_neg h, if_neg (by omega), if_pos (by omega)]

theorem Tree.ser_eq_utf8Text (t : Tree) : t.ser = utf8Text t.chars := by
  induction t with
  | leaf n sym => simp [Tree.ser, Tree.chars, utf8Enc_eq, utf8Bytes]
  | node n l r ihl ihr => simp [Tree.ser, Tree.chars, ihl, ihr, utf8Bytes]

theorem Tree.isScalar_of_mem_chars {t : Tree} {cp : Nat} (h : cp ∈ t.chars) : isScalar cp = true := by
  rw [isScalar_iff]
  induction t with
  | leaf n sym =>
    have := sym.isLt
    simp only [Tree.chars, List.mem_cons, List.not_mem_nil, or_false] at h
    omega
  | node n l r ihl ihr =>
    simp only [Tree.chars, List.mem_cons, List.mem_append] at h
    rcases h with rfl | h | h
    · omega
    · exact ihl h
    · exact ihr h

theorem Tree.depth_le_length_chars (t : Tree) : t.depth ≤ t.chars.length := by
  induction t with
  | leaf n sym => simp [Tree.depth, Tree.chars]
  | node n l r ihl ihr => simp only [Tree.depth, Tree.chars, List.length_cons, List.length_append]; omega

/-- A symbol of at least 0x80 has two bytes (30_encoding R96). -/
theorem utf8Enc_length (sym : Byte) :
    (utf8Enc sym).length = 1 + [sym].countP (fun sym => decide (0x80 ≤ sym.toNat)) := by
  unfold utf8Enc
  split
  · simp [show ¬0x80 ≤ sym.toNat by omega]
  · simp [show 0x80 ≤ sym.toNat by omega]

theorem Tree.length_ser (t : Tree) :
    t.ser.length + 1 = 3 * t.leafSyms.length + t.leafSyms.countP (fun sym => decide (0x80 ≤ sym.toNat)) := by
  induction t with
  | leaf n sym =>
    rw [Tree.ser, List.length_cons, utf8Enc_length, Tree.leafSyms, List.length_singleton]
    omega
  | node n l r ihl ihr =>
    simp only [Tree.ser, Tree.leafSyms, List.length_cons, List.length_append, List.countP_append]
    omega

/-- A symbol's bytes contain 0x00 only for symbol 0x00 (42_serializer R145). -/
theorem zero_mem_utf8Enc_iff (sym : Byte) : 0x00#8 ∈ utf8Enc sym ↔ 0x00#8 = sym := by
  have := sym.isLt
  unfold utf8Enc
  split
  · exact List.mem_singleton
  · simp only [List.mem_cons, List.not_mem_nil, or_false, ← BitVec.toNat_inj, BitVec.toNat_ofNat]
    omega

theorem Tree.zero_mem_ser_iff (t : Tree) : 0x00#8 ∈ t.ser ↔ 0x00#8 ∈ t.leafSyms := by
  induction t with
  | leaf n sym => simp [Tree.ser, Tree.leafSyms, zero_mem_utf8Enc_iff]
  | node n l r ihl ihr => simp [Tree.ser, Tree.leafSyms, ihl, ihr]

/-! ### `Ser` of an arena -/

theorem ser_nil (root : NodeIndex) : ser [] root = .ok [] := rfl

/-- `Ser()` of an arena with a tree is the tree's text (42_serializer R141). -/
theorem ser_of_arenaTree {nodes : List Node} {root : NodeIndex} {t : Tree} (h : arenaTree nodes root = some t) :
    ser nodes root = .ok t.ser := by
  have hne : nodes ≠ [] := by rintro rfl; cases h
  simp [ser, hne, h]

theorem SpansArena.leafCount_eq {nodes : List Node} {root : NodeIndex} {t : Tree} (h : SpansArena nodes root t) :
    leafCount nodes = t.leafSyms.length := by
  have hnodes := h.length_eq
  have hpos := t.leafSyms_length_pos
  have hleaves := t.length_indices
  rw [h.length_indices] at hleaves
  omega

/-- At most 128 distinct symbols are at least 0x80. -/
theorem countP_high_le_of_nodup {syms : List Byte} (h : syms.Nodup) :
    syms.countP (fun sym => decide (0x80 ≤ sym.toNat)) ≤ 128 := by
  have hall : symbols.countP (fun sym => decide (0x80 ≤ sym.toNat)) = 128 := by decide +kernel
  exact ((h.subperm fun sym _ => mem_symbols sym).countP_le _).trans_eq hall

/-- Settles O34: each leaf adds its marker, its symbol's bytes and, but for the first, a node above it. -/
theorem serializedLength : Obligations.SerializedLength := by
  intro nodes root out hok hne hser
  obtain ⟨t, ht⟩ := hok.exists_spansArena hne
  cases (ser_of_arenaTree ht.arenaTree_eq).symm.trans hser
  have hlen := t.length_ser
  have hpos := t.leafSyms_length_pos
  have hnodes : nodes.length ≤ 511 := hok.1
  have hleaves := t.length_indices
  rw [ht.length_indices] at hleaves
  rw [ht.leafCount_eq, ← ht.leafSyms_perm.countP_eq, ← ht.leafSyms_perm.nodup_iff]
  have hhigh : t.leafSyms.countP (fun sym => decide (0x80 ≤ sym.toNat)) ≤ t.leafSyms.length := List.countP_le_length
  refine ⟨by omega, by omega, fun hnodup => ?_⟩
  have := countP_high_le_of_nodup hnodup
  omega

/-- Settles O35: the markers are no 0x00, and a symbol's bytes contain one only for symbol 0x00. -/
theorem serializedZeroBytes : Obligations.SerializedZeroBytes := by
  intro nodes root out hok hser
  by_cases hne : nodes = []
  · subst hne
    cases hser
    rfl
  · obtain ⟨t, ht⟩ := hok.exists_spansArena hne
    cases (ser_of_arenaTree ht.arenaTree_eq).symm.trans hser
    rw [t.zero_mem_ser_iff, ht.leafSyms_perm.mem_iff]

/-! ### SERIALIZE -/

theorem exec_serialize_eq {s : State} {out : List Byte} (hrun : CanRun .serialize s)
    (h : ser s.nodes s.root = .ok out) :
    exec .serialize s = completeRun (cmdInfo .serialize) s (boundedOutput s.dstCap s out) := by
  rw [exec_eq_completeRun hrun.1 hrun.2, bodyOf, serializeBody, h]
  rfl

theorem exec_serialize_of_fits {s : State} {out : List Byte} (hrun : CanRun .serialize s)
    (h : ser s.nodes s.root = .ok out) (hfits : out.length ≤ s.dstCap.toNat) :
    exec .serialize s = .next (s.completeOk out) := by
  rw [exec_serialize_eq hrun h, boundedOutput, if_neg (by omega)]
  rfl

theorem exec_serialize_of_overflow {s : State} {out : List Byte} (hrun : CanRun .serialize s)
    (h : ser s.nodes s.root = .ok out) (hlong : s.dstCap.toNat < out.length) :
    exec .serialize s = .next (s.completeError (cmdInfo .serialize) .dstOverflow (sat32 out.length)) := by
  rw [exec_serialize_eq hrun h, boundedOutput, if_pos hlong]
  rfl

/-- Settles O33: the output is the arena's text, and SERIALIZE has no table in its write set. -/
theorem serializeResult : Obligations.SerializeResult := by
  refine ⟨fun s tr htr hrun => ⟨fun hfits => ?_, fun hlong => ?_⟩, fun s hnil hrun => ?_⟩
  · have hexec := exec_serialize_of_fits hrun (ser_of_arenaTree htr) hfits
    have hframe := exec_frame hexec
    have hlen : (BitVec.ofNat 32 tr.ser.length).toNat = tr.ser.length := by
      rw [BitVec.toNat_ofNat, Nat.mod_eq_of_lt (hfits.trans_lt s.dstCap.isLt)]
    exact ⟨_, hexec, ⟨hlen, rfl, rfl, rfl, rfl, rfl, rfl⟩, Memory.readRange_writeRange _ _ _,
      fun a ha => Memory.read_writeRange_outside s.mem ha, rfl, ⟨rfl, rfl⟩, ⟨rfl, rfl⟩, rfl, rfl, hframe.config,
      hframe.surroundings⟩
  · have hexec := exec_serialize_of_overflow hrun (ser_of_arenaTree htr) hlong
    have hframe := exec_frame hexec
    have hpos : (BitVec.ofNat 32 (sat32 tr.ser.length)).toNat = sat32 tr.ser.length := by
      have := sat32_le tr.ser.length
      rw [BitVec.toNat_ofNat]
      omega
    refine ⟨_, hexec, ⟨rfl, rfl, hpos, rfl, rfl, rfl, rfl⟩, fun a ha => ?_, hframe.freq (by decide),
      hframe.tree (by decide), hframe.codeTable (by decide), hframe.pad (by decide)⟩
    exact s.completeError_read_outside _ _ _ (by rwa [← Bool.not_eq_true, Region.contains_iff])
  · have hser : ser s.nodes s.root = .ok [] := by rw [hnil, ser_nil]
    exact ⟨_, exec_serialize_of_fits hrun hser (Nat.zero_le _), ⟨rfl, rfl, rfl, rfl, rfl, rfl, rfl⟩, rfl, ⟨rfl, rfl⟩⟩

end Sys2Proof.Machine

/-! ## The inverse law (42_serializer R144)

Parsing a tree's text lays the same tree out from a given index on, its nodes in pre-order. -/

namespace Sys2Proof.Machine

/-- The tree with pre-order indices from `k` on. -/
def Tree.renumber : Tree → Nat → Tree
  | .leaf _ sym, k => .leaf k sym
  | .node _ l r, k => .node k (l.renumber (k + 1)) (r.renumber (k + 1 + l.indices.length))

/-- The nodes of the tree in pre-order from index `k` on, weights 0 (42_serializer R143). -/
def Tree.layout : Tree → Nat → List Node
  | .leaf _ sym, _ => [.leaf sym 0]
  | .node _ l r, k =>
    innerNode k l.indices.length :: (l.layout (k + 1) ++ r.layout (k + 1 + l.indices.length))

@[simp] theorem Tree.shape_renumber (t : Tree) (k : Nat) : (t.renumber k).shape = t.shape := by
  induction t generalizing k with
  | leaf n sym => rfl
  | node n l r ihl ihr => simp [Tree.renumber, Tree.shape, ihl, ihr]

@[simp] theorem Tree.index_renumber (t : Tree) (k : Nat) : (t.renumber k).index = k := by
  cases t <;> rfl

@[simp] theorem Tree.indices_renumber (t : Tree) (k : Nat) :
    (t.renumber k).indices = List.range' k t.indices.length := by
  induction t generalizing k with
  | leaf n sym => rfl
  | node n l r ihl ihr =>
    simp only [Tree.renumber, Tree.indices, ihl, ihr, List.length_cons, List.length_append, List.range'_succ,
      List.range'_append_1]

@[simp] theorem Tree.length_layout (t : Tree) (k : Nat) : (t.layout k).length = t.indices.length := by
  induction t generalizing k with
  | leaf n sym => rfl
  | node n l r ihl ihr => simp [Tree.layout, Tree.indices, ihl, ihr]

theorem Tree.weight_of_mem_layout {t : Tree} {k : Nat} {n : Node} (h : n ∈ t.layout k) : n.weight = 0 := by
  induction t generalizing k with
  | leaf i sym =>
    obtain rfl := List.mem_singleton.1 h
    rfl
  | node i l r ihl ihr =>
    simp only [Tree.layout, List.mem_cons, List.mem_append] at h
    rcases h with rfl | h | h
    · rfl
    · exact ihl h
    · exact ihr h

/-- An arena that holds the layout from index `k` on has the renumbered tree there. -/
theorem Tree.inArena_layout {t : Tree} {before : List Node} (hlen : before.length + t.indices.length ≤ Config.maxNodes)
    (after : List Node) :
    (t.renumber before.length).InArena (before ++ t.layout before.length ++ after) := by
  have hmax : Config.maxNodes = 511 := rfl
  induction t generalizing before after with
  | leaf n sym => exact ⟨0, by simp [Tree.layout]⟩
  | node n l r ihl ihr =>
    simp only [Tree.indices, List.length_cons, List.length_append] at hlen
    generalize hk : before.length = k at hlen
    have hleft := ihl (before := before ++ [innerNode k l.indices.length])
      (by simp only [List.length_append, List.length_singleton]; omega) (r.layout (k + 1 + l.indices.length) ++ after)
    have hright := ihr (before := before ++ innerNode k l.indices.length :: l.layout (k + 1))
      (by simp only [List.length_append, List.length_cons, Tree.length_layout]; omega) after
    have hroot : (before ++ (Tree.node n l r).layout k ++ after)[k]? = some (innerNode k l.indices.length) := by
      simp [Tree.layout, ← hk]
    refine ⟨⟨0, _, _, hroot, ?_, ?_⟩, ?_, ?_⟩
    · rw [Tree.index_renumber, BitVec.toNat_ofNat, Nat.mod_eq_of_lt (by omega)]
    · rw [Tree.index_renumber, BitVec.toNat_ofNat, Nat.mod_eq_of_lt (by omega)]
    · simpa [Tree.layout, hk] using hleft
    · simpa [Tree.layout, hk, Nat.add_assoc, Nat.add_comm l.indices.length 1] using hright

/-- `Parse` of a tree's text lays the tree out (42_serializer R143, R144). -/
theorem parseTree_chars {t : Tree} {fuel k : Nat} (hfuel : t.depth ≤ fuel)
    (hk : k + t.indices.length ≤ Config.maxNodes) (stop off : Nat) (rest : List Utf8Char) :
    parseTree stop fuel (charsAt off t.chars ++ rest) k = .ok ⟨t.layout k, rest⟩ := by
  induction t generalizing fuel k off rest with
  | leaf n sym =>
    have hsym : BitVec.ofNat 8 (sym.toNat % 256) = sym := by
      rw [Nat.mod_eq_of_lt sym.isLt, BitVec.ofNat_toNat, BitVec.setWidth_eq]
    simp only [Tree.depth, Tree.indices, List.length_singleton] at hfuel hk
    obtain ⟨fuel, rfl⟩ : ∃ m, fuel = m + 1 := ⟨fuel - 1, by omega⟩
    simp only [Tree.chars, charsAt_cons, charsAt_nil, List.cons_append, List.nil_append]
    rw [parseTree_leaf rfl (by omega), hsym, Tree.layout]
  | node n l r ihl ihr =>
    simp only [Tree.depth, Tree.indices, List.length_cons, List.length_append] at hfuel hk
    obtain ⟨fuel, rfl⟩ : ∃ m, fuel = m + 1 := ⟨fuel - 1, by omega⟩
    rw [Tree.chars, charsAt_cons, charsAt_append, List.cons_append, List.append_assoc,
      parseTree_inner rfl (by omega), ihl (by omega) (by omega)]
    simp only [Run.ok_bind, Tree.length_layout]
    rw [ihr (by omega) (by omega)]
    simp [Except.map, Parsed.join, Tree.layout]

/-- `Deser` of a tree's text is the tree's layout from index 0 (42_serializer R144). -/
theorem Tree.deser_ser {t : Tree} (h : t.indices.length ≤ Config.maxNodes) (base : Nat) :
    deser t.ser base = .ok (t.layout 0) := by
  have hfuel : t.depth ≤ (charsAt base t.chars).length := by
    rw [← List.length_map (f := Utf8Char.cp), charsAt_map_cp]
    exact t.depth_le_length_chars
  have hparse := parseTree_chars hfuel (k := 0) (by omega) (base + t.ser.length) base []
  rw [List.append_nil] at hparse
  have hdec : utf8Dec t.ser base = .ok (charsAt base t.chars) := by
    rw [t.ser_eq_utf8Text, utf8Dec_utf8Text fun cp hcp => Tree.isScalar_of_mem_chars hcp]
  simp only [deser, hdec, Run.ok_bind, hparse]

theorem Tree.spansArena_layout {t : Tree} (h : t.indices.length ≤ Config.maxNodes) :
    SpansArena (t.layout 0) 0 (t.renumber 0) where
  inArena := by simpa using Tree.inArena_layout (t := t) (before := []) (by simpa using h) []
  index := t.index_renumber 0
  perm := by rw [Tree.indices_renumber, Tree.length_layout, List.range_eq_range']

/-- Settles O36: the arena deserialized is the layout of the arena's tree. -/
theorem deserInvertsSer : Obligations.DeserInvertsSer := by
  intro nodes root base hok
  refine ⟨fun hne => ?_, ?_⟩
  · obtain ⟨t, ht⟩ := hok.exists_spansArena hne
    have hlen : t.indices.length ≤ Config.maxNodes := ht.length_indices.trans_le hok.1
    refine ⟨t, t.ser, t.layout 0, t.renumber 0, ht.arenaTree_eq, ser_of_arenaTree ht.arenaTree_eq,
      Tree.deser_ser hlen base, (Tree.spansArena_layout hlen).arenaTree_eq, t.shape_renumber 0,
      fun n hn => Tree.weight_of_mem_layout hn, ?_⟩
    rw [Tree.indices_renumber, Tree.length_layout, List.range_eq_range']
  · rintro rfl
    exact ⟨ser_nil root, rfl⟩

/-- Settles O37: the arena written is the one the inverse law gives. -/
theorem deserializeResult : Obligations.DeserializeResult := by
  intro s nodes root tr S hok htr hser hS hrun
  obtain ⟨tr₀, out, nodes', tr', htr₀, hser', hdeser, htr', hshape, hweight, -⟩ :=
    (deserInvertsSer nodes root 0 hok).1 (by rintro rfl; cases htr)
  cases htr₀.symm.trans htr
  cases hser'.symm.trans hser
  have hexec := exec_deserialize_of_ok hrun hS hdeser
  have hframe := exec_frame hexec
  exact ⟨_, tr', hexec, htr', hshape, rfl, hweight, codeTableCleared_of_eq rfl rfl,
    ⟨rfl, rfl, rfl, rfl, rfl, rfl, rfl⟩, rfl, rfl, rfl, rfl, hframe.config, hframe.surroundings⟩

end Sys2Proof.Machine

/-! ## Packing bits into bytes (43_bitstream R170, R171, R177)

One fact carries the section: the bits of the packed bytes are the sequence followed by its padding. -/

namespace Sys2Proof.Machine

/-! ### The bits of bytes -/

theorem byteBits_getElem? (b : Byte) {m : Nat} (hm : m < 8) : (byteBits b)[m]? = some (b.getLsbD (7 - m)) := by
  interval_cases m <;> rfl

/-- Eight bits packed into a byte are the byte's bits. -/
theorem byteBits_ofNat_natOfBits {bits : Bits} (h : bits.length = 8) :
    byteBits (BitVec.ofNat 8 (natOfBits bits)) = bits := by
  refine List.ext_getElem? fun m => ?_
  by_cases hm : m < 8
  · rw [byteBits_getElem? _ hm, BitVec.getLsbD_ofNat, testBit_natOfBits, List.getD_eq_getElem?_getD,
      List.getElem?_reverse (by omega), show bits.length - 1 - (7 - m) = m by omega]
    simp [h, hm, show 7 - m < 8 by omega]
  · rw [List.getElem?_eq_none (by rw [byteBits_length]; omega), List.getElem?_eq_none (by omega)]

@[simp] theorem length_flatMap_byteBits (P : List Byte) : (P.flatMap byteBits).length = 8 * P.length := by
  simp [List.length_flatMap, Nat.mul_comm]

/-- Bit `8j + m` of a byte sequence is bit `7 - m` of byte `j` (43_bitstream R171). -/
theorem getD_flatMap_byteBits (P : List Byte) (j : Nat) {m : Nat} (hm : m < 8) :
    (P.flatMap byteBits).getD (8 * j + m) false = (P.getD j 0).getLsbD (7 - m) := by
  induction P generalizing j with
  | nil => simp
  | cons b P ih =>
    rw [List.flatMap_cons]
    cases j with
    | zero =>
      rw [List.getD_append _ _ _ _ (by simpa using hm), List.getD_eq_getElem?_getD, Nat.mul_zero, Nat.zero_add,
        byteBits_getElem? b hm]
      rfl
    | succ j =>
      rw [List.getD_append_right _ _ _ _ (by rw [byteBits_length]; omega), byteBits_length,
        show 8 * (j + 1) + m - 8 = 8 * j + m by omega, ih, List.getD_cons_succ]

/-! ### `Pack` -/

@[simp] theorem length_packBytes (n : Nat) (q : Bits) : (packBytes n q).length = n := by
  induction n generalizing q with
  | zero => rfl
  | succ n ih => rw [packBytes, List.length_cons, ih]

theorem flatMap_byteBits_packBytes {n : Nat} {q : Bits} (h : q.length = 8 * n) :
    (packBytes n q).flatMap byteBits = q := by
  induction n generalizing q with
  | zero => exact (List.length_eq_zero_iff.1 (by omega)).symm
  | succ n ih =>
    rw [packBytes, List.flatMap_cons, byteBits_ofNat_natOfBits (by rw [List.length_take]; omega),
      ih (by rw [List.length_drop]; omega), List.take_append_drop]

theorem length_add_padCount (bits : Bits) : bits.length + padCount bits = 8 * ((bits.length + 7) / 8) := by
  unfold padCount
  omega

theorem padCount_le (bits : Bits) : padCount bits ≤ 7 := by
  unfold padCount
  omega

theorem pack_snd (bits : Bits) : (pack bits).2 = padCount bits := rfl

/-- The bits of the packed bytes: the sequence, then the padding (43_bitstream R170). -/
theorem flatMap_byteBits_pack (bits : Bits) :
    (pack bits).1.flatMap byteBits = bits ++ List.replicate (padCount bits) false := by
  refine flatMap_byteBits_packBytes ?_
  rw [List.length_append, List.length_replicate, length_add_padCount]
  omega

@[simp] theorem length_pack (bits : Bits) : (pack bits).1.length = (bits.length + 7) / 8 := by
  have hbits := congrArg List.length (flatMap_byteBits_pack bits)
  rw [length_flatMap_byteBits, List.length_append, List.length_replicate, length_add_padCount] at hbits
  omega

theorem getD_append_replicate {α : Type} (l : List α) (n i : Nat) (d : α) :
    (l ++ List.replicate n d).getD i d = l.getD i d := by
  by_cases hi : i < l.length
  · rw [List.getD_append _ _ _ _ hi]
  · rw [List.getD_append_right _ _ _ _ (by omega), List.getD_eq_default l d (by omega),
      List.getD_eq_getElem?_getD]
    exact List.getElem?_getD_replicate_default_eq ..

/-- Bit `7 - m` of byte `j` of the packed bytes is bit `8j + m` of the sequence (30_encoding R98). -/
theorem getLsbD_pack (bits : Bits) (j : Nat) {m : Nat} (hm : m < 8) :
    ((pack bits).1.getD j 0).getLsbD (7 - m) = bits.getD (8 * j + m) false := by
  rw [← getD_flatMap_byteBits _ _ hm, flatMap_byteBits_pack, getD_append_replicate]

/-! ### `Unpack` -/

theorem unpack_of_padRange {P : List Byte} {pad : Nat} (h : 7 < pad ∨ 8 * P.length < pad) :
    unpack P pad = raise .padRange 0 :=
  if_pos h

theorem unpack_of_le {P : List Byte} {pad : Nat} (h7 : pad ≤ 7) (hP : pad ≤ 8 * P.length) :
    unpack P pad = .ok ((P.flatMap byteBits).take (8 * P.length - pad)) :=
  if_neg (by omega)

/-- `Unpack` inverts `Pack` (43_bitstream R177). -/
theorem unpack_pack (bits : Bits) : unpack (pack bits).1 (pack bits).2 = .ok bits := by
  have hlen := length_add_padCount bits
  rw [pack_snd, unpack_of_le (padCount_le bits) (by rw [length_pack]; omega), flatMap_byteBits_pack, length_pack,
    List.take_left' (by omega)]

/-- Settles O39: the packed bytes' bits are the sequence and its padding, which `Unpack` drops. -/
theorem packAndUnpack : Obligations.PackAndUnpack := by
  intro bits
  have hlen := length_add_padCount bits
  refine ⟨⟨rfl, length_pack bits, fun j m b hm hb => ?_⟩, padCount_le bits, ?_, unpack_pack bits⟩
  · rw [← getLsbD_pack bits j hm, List.getD_eq_getElem?_getD, hb, Option.getD_some]
  · rw [pack_snd, length_pack]
    omega

end Sys2Proof.Machine

/-! ## Walking the codes of a tree (43_bitstream R172, R178)

`Walk` follows a path to a leaf, emits the leaf's symbol and starts again at the root; over a sequence of such paths it
emits the leaves' symbols (`walkFrom_leaves`). -/

namespace Sys2Proof.Machine

/-! ### One bit of `Walk` -/

section
variable {nodes : List Node} {root n j : Nat} {w : Word} {l r : NodeIndex} {b : Bool} {bits : Bits}

theorem walkFrom_root_nil : walkFrom nodes root root j [] = .ok [] := if_pos rfl

theorem walkFrom_nil_of_ne (h : n ≠ root) : walkFrom nodes root n j [] = raise .walkIncomplete (sat32 j) := if_neg h

theorem walkFrom_at_leaf {sym : Byte} (hn : nodes[n]? = some (.leaf sym w)) :
    walkFrom nodes root n j (b :: bits) = raise .walkNoChild (sat32 j) := by
  simp only [walkFrom, hn]

theorem walkFrom_to_leaf {sym : Byte} {w' : Word} (hn : nodes[n]? = some (.internal w l r))
    (hchild : nodes[if b then r.toNat else l.toNat]? = some (.leaf sym w')) :
    walkFrom nodes root n j (b :: bits) = (walkFrom nodes root root (j + 1) bits).map ([sym] ++ ·) := by
  simp only [walkFrom, hn, hchild]
  rfl

theorem walkFrom_to_internal {w' : Word} {l' r' : NodeIndex} (hn : nodes[n]? = some (.internal w l r))
    (hchild : nodes[if b then r.toNat else l.toNat]? = some (.internal w' l' r')) :
    walkFrom nodes root n j (b :: bits) = walkFrom nodes root (if b then r.toNat else l.toNat) (j + 1) bits := by
  simp only [walkFrom, hn, hchild]

end

/-! ### Paths -/

section
variable {nodes : List Node} {root n m j : Nat} {path rest : Bits} {w : Word} {l r : NodeIndex}

/-- A path goes on only from an internal node, into the child its first bit names. -/
theorem follow_cons_eq_some_iff {b : Bool} :
    follow nodes n (b :: path) = some m ↔
      ∃ w l r, nodes[n]? = some (.internal w l r) ∧ follow nodes (if b then r.toNat else l.toNat) path = some m := by
  rcases hn : nodes[n]? with _ | ⟨sym, w⟩ | ⟨w, l, r⟩ <;> simp [follow, hn]

/-- A path to an internal node starts at an internal node. -/
theorem exists_internal_of_follow (h : follow nodes n path = some m) (hm : nodes[m]? = some (.internal w l r)) :
    ∃ w l r, nodes[n]? = some (.internal w l r) := by
  cases path with
  | nil =>
    cases h
    exact ⟨w, l, r, hm⟩
  | cons b path =>
    obtain ⟨w', l', r', hn, -⟩ := follow_cons_eq_some_iff.1 h
    exact ⟨w', l', r', hn⟩

/-- A path that takes a link ends at a child. -/
theorem exists_hasChild_of_follow (h : follow nodes n path = some m) (hne : path ≠ []) :
    ∃ (k : Nat) (x : Node), nodes[k]? = some x ∧ x.hasChild m = true := by
  induction path generalizing n with
  | nil => exact absurd rfl hne
  | cons b path ih =>
    obtain ⟨w, l, r, hn, hrest⟩ := follow_cons_eq_some_iff.1 h
    cases path with
    | nil =>
      cases hrest
      exact ⟨n, _, hn, by cases b <;> simp [Node.hasChild]⟩
    | cons c path => exact ih hrest (List.cons_ne_nil c path)

/-- Along a path to an internal node `Walk` emits nothing. -/
theorem walkFrom_internal (h : follow nodes n path = some m) (hm : nodes[m]? = some (.internal w l r)) :
    walkFrom nodes root n j (path ++ rest) = walkFrom nodes root m (j + path.length) rest := by
  induction path generalizing n j with
  | nil =>
    cases h
    rfl
  | cons b path ih =>
    obtain ⟨w', l', r', hn, hpath⟩ := follow_cons_eq_some_iff.1 h
    obtain ⟨w'', l'', r'', hchild⟩ := exists_internal_of_follow hpath hm
    have hlen : j + 1 + path.length = j + (b :: path).length := Nat.add_right_comm j 1 path.length
    rw [List.cons_append, walkFrom_to_internal hn hchild, ih hpath, hlen]

/-- At the end of a path to a leaf `Walk` emits the leaf's symbol and is back at the root. -/
theorem walkFrom_leaf {n : NodeIndex} {sym : Byte} (h : LeadsToLeaf nodes n path sym) (hne : path ≠ []) :
    walkFrom nodes root n.toNat j (path ++ rest) =
      (walkFrom nodes root root (j + path.length) rest).map ([sym] ++ ·) := by
  induction path generalizing n j with
  | nil => exact absurd rfl hne
  | cons b path ih =>
    obtain ⟨w, l, r, hn, hpath⟩ := leadsToLeaf_cons_iff.1 h
    cases path with
    | nil =>
      obtain ⟨w', hleaf⟩ := leadsToLeaf_nil_iff.1 hpath
      rw [apply_ite BitVec.toNat] at hleaf
      exact walkFrom_to_leaf hn hleaf
    | cons c path =>
      obtain ⟨w', l', r', hchild, -⟩ := leadsToLeaf_cons_iff.1 hpath
      rw [apply_ite BitVec.toNat] at hchild
      have hlen : j + 1 + (c :: path).length = j + (b :: c :: path).length := Nat.add_right_comm j 1 _
      rw [List.cons_append, walkFrom_to_internal hn hchild, ← apply_ite BitVec.toNat,
        ih hpath (List.cons_ne_nil c path), hlen]

end

/-- From a root that is no leaf, `Walk` emits the symbols of a sequence of leaves along their paths. -/
theorem walkFrom_leaves {nodes : List Node} {root l r : NodeIndex} {w : Word} {leaves : List (Byte × Bits)} {j : Nat}
    {rest : Bits} (hroot : nodes[root.toNat]? = some (.internal w l r))
    (h : ∀ p ∈ leaves, LeadsToLeaf nodes root p.2 p.1) :
    walkFrom nodes root.toNat root.toNat j (leaves.flatMap (fun p => p.2) ++ rest) =
      (walkFrom nodes root.toNat root.toNat (j + (leaves.flatMap (fun p => p.2)).length) rest).map
        (leaves.map (fun p => p.1) ++ ·) := by
  induction leaves generalizing j with
  | nil =>
    change _ = Except.map id _
    rw [Except.map_id]
    rfl
  | cons p leaves ih =>
    obtain ⟨hp, hleaves⟩ := List.forall_mem_cons.1 h
    have hne : p.2 ≠ [] := fun hnil => by
      rw [hnil, leadsToLeaf_nil_iff, hroot] at hp
      simp at hp
    rw [List.flatMap_cons, List.append_assoc, walkFrom_leaf hp hne, ih hleaves, List.length_append, Nat.add_assoc]
    cases walkFrom nodes root.toNat root.toNat (j + (p.2.length + (leaves.flatMap (fun p => p.2)).length)) rest <;> rfl

/-! ### `Walk` -/

theorem ne_nil_of_leafCount_pos {nodes : List Node} (h : 0 < leafCount nodes) : nodes ≠ [] := by
  rintro rfl
  simp [leafCount] at h

section
variable {nodes : List Node} {root : NodeIndex}

/-- The root of an arena of two leaves or more is an internal node. -/
theorem ArenaOk.root_internal (hok : ArenaOk nodes root) (hleaves : 2 ≤ leafCount nodes) :
    ∃ w l r, nodes[root.toNat]? = some (.internal w l r) := by
  obtain ⟨t, ht⟩ := hok.exists_spansArena (ne_nil_of_leafCount_pos (by omega))
  rw [ht.leafCount_eq] at hleaves
  have hin := ht.inArena
  rw [← ht.index]
  cases t with
  | leaf n sym => simp [Tree.leafSyms] at hleaves
  | node n tl tr =>
    obtain ⟨⟨w, l, r, hn, -⟩, -⟩ := hin
    exact ⟨w, l, r, hn⟩

/-- The root of an arena of one leaf is the leaf. -/
theorem ArenaOk.root_leaf (hok : ArenaOk nodes root) (hleaf : leafCount nodes = 1) :
    ∃ sym w, nodes[root.toNat]? = some (.leaf sym w) := by
  obtain ⟨t, ht⟩ := hok.exists_spansArena (ne_nil_of_leafCount_pos (by omega))
  rw [ht.leafCount_eq] at hleaf
  have hin := ht.inArena
  rw [← ht.index]
  cases t with
  | leaf n sym => exact ⟨sym, hin⟩
  | node n tl tr =>
    have hl := tl.leafSyms_length_pos
    have hr := tr.leafSyms_length_pos
    rw [Tree.leafSyms, List.length_append] at hleaf
    omega

theorem walk_nil : walk nodes root [] = .ok [] := walkFrom_root_nil

/-- The bits of a sequence of leaves' paths give the leaves' symbols (43_bitstream R172). -/
theorem walk_leaves (hok : ArenaOk nodes root) (htwo : 2 ≤ leafCount nodes) {leaves : List (Byte × Bits)}
    (h : ∀ p ∈ leaves, LeadsToLeaf nodes root p.2 p.1) :
    walk nodes root (leaves.flatMap (fun p => p.2)) = .ok (leaves.map (fun p => p.1)) := by
  obtain ⟨w, l, r, hroot⟩ := hok.root_internal htwo
  have hwalk := walkFrom_leaves (j := 0) (rest := []) hroot h
  rw [List.append_nil, walkFrom_root_nil] at hwalk
  rw [walk, hwalk, Except.map, List.append_nil]

/-- Bits that end at an internal node below the root (43_bitstream R172). -/
theorem walk_incomplete (hok : ArenaOk nodes root) (htwo : 2 ≤ leafCount nodes) {leaves : List (Byte × Bits)}
    (h : ∀ p ∈ leaves, LeadsToLeaf nodes root p.2 p.1) {rest : Bits} {m : Nat} {w : Word} {l r : NodeIndex}
    (hne : rest ≠ []) (hrest : follow nodes root.toNat rest = some m) (hm : nodes[m]? = some (.internal w l r)) :
    walk nodes root (leaves.flatMap (fun p => p.2) ++ rest) =
      raise .walkIncomplete (sat32 (leaves.flatMap (fun p => p.2) ++ rest).length) := by
  obtain ⟨w', l', r', hroot⟩ := hok.root_internal htwo
  obtain ⟨t, ht⟩ := hok.exists_spansArena (ne_nil_of_leafCount_pos (by omega))
  obtain ⟨k, x, hx, hchild⟩ := exists_hasChild_of_follow hrest hne
  have hbelow : m ≠ root.toNat := by
    rintro rfl
    simp [ht.root_no_child hx] at hchild
  have hlast := walkFrom_internal (root := root.toNat) (j := (leaves.flatMap (fun p => p.2)).length) (rest := [])
    hrest hm
  rw [List.append_nil, walkFrom_nil_of_ne hbelow, ← List.length_append] at hlast
  rw [walk, walkFrom_leaves hroot h, Nat.zero_add, hlast]
  rfl

/-- A one-leaf tree has no child for a bit to move to (43_bitstream R172). -/
theorem walk_one_leaf (hok : ArenaOk nodes root) (hleaf : leafCount nodes = 1) {bits : Bits} (hne : bits ≠ []) :
    walk nodes root bits = raise .walkNoChild 0 := by
  obtain ⟨sym, w, hroot⟩ := hok.root_leaf hleaf
  obtain ⟨b, bits, rfl⟩ := List.exists_cons_of_ne_nil hne
  exact walkFrom_at_leaf hroot

/-! ### The decoder inverts the encoder -/

/-- A coded symbol's code is the path to its leaf. -/
theorem leadsToLeaf_lookupCode {ct : CodeTable} (h : codes nodes root = .ok ct) {sym : Byte}
    (hsym : (lookupCode ct sym).isSome = true) : LeadsToLeaf nodes root ((lookupCode ct sym).getD []) sym := by
  obtain ⟨code, hcode⟩ := Option.isSome_iff_exists.1 hsym
  rw [hcode]
  exact (codes_entry_iff h).1 hcode

theorem LeadsToLeaf.eq_nil_of_one_leaf (hok : ArenaOk nodes root) (hleaf : leafCount nodes = 1) {path : Bits}
    {sym : Byte} (h : LeadsToLeaf nodes root path sym) : path = [] := by
  obtain ⟨sym', w, hroot⟩ := hok.root_leaf hleaf
  cases path with
  | nil => rfl
  | cons b path =>
    obtain ⟨w', l, r, hinner, -⟩ := leadsToLeaf_cons_iff.1 h
    simp [hroot] at hinner

end

/-- Settles O45: the codes are the paths to the leaves, which `Walk` follows one after the other; the only code of a
one-leaf tree is empty. -/
theorem walkInvertsCodes : Obligations.WalkInvertsCodes := by
  intro nodes root t x hok hne hcodes hcoded
  have hpaths : ∀ y ∈ x, LeadsToLeaf nodes root ((lookupCode t y).getD []) y := fun y hy =>
    leadsToLeaf_lookupCode hcodes (hcoded y hy)
  refine ⟨fun htwo => ?_, fun hleaf => ⟨?_, walk_nil⟩⟩
  · have hwalk := walk_leaves hok htwo (leaves := x.map (fun y => (y, (lookupCode t y).getD [])))
      (by simpa [List.forall_mem_map] using hpaths)
    simpa [List.flatMap_map, Function.comp_def] using hwalk
  · exact List.flatMap_eq_nil_iff.2 fun y hy => (hpaths y hy).eq_nil_of_one_leaf hok hleaf

end Sys2Proof.Machine

/-! ## PACKBITS, UNPACKBITS, ENCODE and DECODE (43_bitstream R173 to R176)

Each command's pseudocode ends with an output to bound or with an error. What the machine then shows is said once for
every command (`SucceedsWith`, `FailsWith`); a command's own part is what its pseudocode ends with. -/

namespace Sys2Proof.Machine

/-! ### How a command ends (30_encoding R105) -/

/-- The command ends with success: the output stands at the destination, and only the write set has changed. -/
structure SucceedsWith (i : Instr) (s t : State) (out : List Byte) : Prop where
  exec : exec i s = .next t
  record : t.completedWith out.length 0 0
  output : OutputIs s t out
  memory : SameMemoryButOutput s t out.length
  frame : CommandFrame (cmdInfo i) s t
  draws : t.draws = s.draws

/-- The command ends with an error of its pseudocode: `PAD` is cleared where it is in the write set (60_exceptions
R224). -/
structure FailsWith (i : Instr) (s t : State) (code : ErrorCode) (pos : Nat) : Prop where
  exec : exec i s = .next t
  record : t.completedWith 0 code.value pos
  memory : SameMemoryButDestination s t
  frame : CommandFrame (cmdInfo i) s t
  pad : (cmdInfo i).writesPad = true → t.pad = 0

section
variable {i : Instr} {s s' : State} {S out : List Byte}

theorem exec_of_snap (hrun : CanRun i s) (hS : s.snap = some S) :
    exec i s = completeRun (cmdInfo i) s (bodyOf i s S) := by
  rw [exec_eq_complete]
  exact complete_of_run hrun.1 hrun.2 hS

theorem succeedsWith_of_ok (hrun : CanRun i s) (hS : s.snap = some S) (h : bodyOf i s S = .ok (s', out)) :
    SucceedsWith i s (s'.completeOk out) out := by
  have hw := bodyOf_ok h
  refine ⟨?_, ⟨hw.toNat_outLen, rfl, rfl, rfl, rfl, rfl, rfl⟩, hw.outputIs, hw.sameMemoryButOutput, hw.frame, ?_⟩
  · rw [exec_of_snap hrun hS, h]
    rfl
  · rw [hw.state]
    rfl

theorem failsWith_of_raise {code : ErrorCode} {pos : Nat} (hrun : CanRun i s) (hS : s.snap = some S)
    (h : bodyOf i s S = raise code pos) (hpos : pos < 2 ^ 32) :
    FailsWith i s (s.completeError (cmdInfo i) code pos) code pos := by
  have herrPos : (BitVec.ofNat 32 pos).toNat = pos := by rw [BitVec.toNat_ofNat, Nat.mod_eq_of_lt hpos]
  refine ⟨?_, ⟨rfl, rfl, herrPos, rfl, rfl, rfl, rfl⟩, fun a ha => ?_, s.completeError_frame _ code pos, fun hpad => ?_⟩
  · rw [exec_of_snap hrun hS, h]
    rfl
  · exact s.completeError_read_outside _ code pos (by rwa [← Bool.not_eq_true, Region.contains_iff])
  · simp [State.completeError, hpad]

/-- An output that fits is written (30_encoding R106). -/
theorem succeedsWith_of_fits (hrun : CanRun i s) (hS : s.snap = some S)
    (h : bodyOf i s S = boundedOutput s.dstCap s' out) (hfits : out.length ≤ s.dstCap.toNat) :
    SucceedsWith i s (s'.completeOk out) out :=
  succeedsWith_of_ok hrun hS (h.trans (if_neg (by omega)))

theorem sat32_lt (v : Nat) : sat32 v < 2 ^ 32 := (sat32_le v).trans_lt (by decide)

/-- An output that does not fit is reported by its length (30_encoding R106). -/
theorem failsWith_of_overflow (hrun : CanRun i s) (hS : s.snap = some S)
    (h : bodyOf i s S = boundedOutput s.dstCap s' out) (hlong : s.dstCap.toNat < out.length) :
    FailsWith i s (s.completeError (cmdInfo i) .dstOverflow (sat32 out.length)) .dstOverflow (sat32 out.length) :=
  failsWith_of_raise hrun hS (h.trans (if_pos hlong)) (sat32_lt _)

end

/-- The bytes of the output, one by one. -/
theorem OutputIs.read {s t : State} {out : List Byte} (h : OutputIs s t out) {k : Nat} (hk : k < out.length) :
    Memory.read t.mem (s.dstAddr.toNat + k) = out.getD k 0 := by
  have hget := congrArg (fun bytes => bytes.getD k 0) h
  simpa [Memory.readRange_eq_map, hk] using hget

/-! ### Commands that pack bits: PACKBITS and ENCODE -/

section
variable {i : Instr} {s : State} {S : List Byte} {bits : Bits}

/-- The pseudocode's end of a command that packs the bits. -/
def packedOutput (s : State) (bits : Bits) : Run (State × List Byte) :=
  boundedOutput s.dstCap (s.setPad (BitVec.ofNat 8 (pack bits).2)) (pack bits).1

/-- The packed bits as they stand in memory (30_encoding R98). -/
theorem OutputIs.getLsbD_read {t : State} (h : OutputIs s t (pack bits).1) {j m : Nat} (hj : j < (bits.length + 7) / 8)
    (hm : m < 8) : (Memory.read t.mem (s.dstAddr.toNat + j)).getLsbD (7 - m) = bits.getD (8 * j + m) false := by
  rw [h.read (by rwa [length_pack]), getLsbD_pack bits j hm]

theorem toNat_ofNat_padCount (bits : Bits) : (BitVec.ofNat 8 (padCount bits)).toNat = padCount bits := by
  have hpad := padCount_le bits
  rw [BitVec.toNat_ofNat, Nat.mod_eq_of_lt (by omega)]

/-- What a command with the write set of PACKBITS does with the bits it packs. -/
theorem exec_packed (hi : cmdInfo i = cmdInfo .packbits) (hrun : CanRun i s) (hS : s.snap = some S)
    (h : bodyOf i s S = packedOutput s bits) :
    ((bits.length + 7) / 8 ≤ s.dstCap.toNat →
      ∃ t, exec i s = .next t ∧ t.completedWith ((bits.length + 7) / 8) 0 0 ∧
        t.pad.toNat = (8 - bits.length % 8) % 8 ∧
        (∀ j m, j < (bits.length + 7) / 8 → m < 8 →
          (Memory.read t.mem (s.dstAddr.toNat + j)).getLsbD (7 - m) = bits.getD (8 * j + m) false) ∧
        SameMemoryButOutput s t ((bits.length + 7) / 8) ∧ t.freq = s.freq ∧ SameTree s t ∧ SameCodeTable s t ∧
        t.draws = s.draws ∧ SameConfig s t ∧ SameSurroundings s t) ∧
    (s.dstCap.toNat < (bits.length + 7) / 8 →
      ∃ t, exec i s = .next t ∧ t.completedWith 0 0x05#8 (sat32 ((bits.length + 7) / 8)) ∧ t.pad = 0) := by
  rw [← length_pack]
  refine ⟨fun hfits => ?_, fun hlong => ?_⟩
  · obtain ⟨hexec, hrecord, houtput, hmemory, hframe, hdraws⟩ := succeedsWith_of_fits hrun hS h hfits
    rw [hi] at hframe
    exact ⟨_, hexec, hrecord, toNat_ofNat_padCount bits,
      fun j m hj hm => houtput.getLsbD_read (length_pack bits ▸ hj) hm, hmemory,
      hframe.freq (by decide), hframe.tree (by decide), hframe.codeTable (by decide), hdraws, hframe.config,
      hframe.surroundings⟩
  · have ht := failsWith_of_overflow hrun hS h hlong
    exact ⟨_, ht.exec, ht.record, ht.pad (hi ▸ rfl)⟩

/-- An error of a command with the write set of PACKBITS. -/
theorem exec_packing_raise (hi : cmdInfo i = cmdInfo .packbits) (hrun : CanRun i s) (hS : s.snap = some S)
    {code : ErrorCode} {pos : Nat} (h : bodyOf i s S = raise code pos) (hpos : pos < 2 ^ 32) :
    ∃ t, exec i s = .next t ∧ t.completedWith 0 code.value pos ∧ t.pad = 0 ∧ SameMemoryButDestination s t ∧
      t.freq = s.freq ∧ SameTree s t ∧ SameCodeTable s t := by
  obtain ⟨t, hexec, hrecord, hmemory, hframe, hpad⟩ : ∃ t, FailsWith i s t code pos :=
    ⟨_, failsWith_of_raise hrun hS h hpos⟩
  rw [hi] at hframe hpad
  exact ⟨t, hexec, hrecord, hpad rfl, hmemory, hframe.freq (by decide), hframe.tree (by decide),
    hframe.codeTable (by decide)⟩

end

/-! ### PACKBITS -/

theorem bitsOfBytes_bytesOfBits (i : Nat) (bits : Bits) : bitsOfBytes i (bytesOfBits bits) = .ok bits := by
  induction bits generalizing i with
  | nil => rfl
  | cons b bits ih =>
    rw [bytesOfBits, List.map_cons, bitsOfBytes, ← bytesOfBits, ih]
    cases b <;> rfl

theorem bitsOfBytes_badBit (i : Nat) {before : List Byte} (after : List Byte) {x : Byte}
    (hbefore : ∀ y ∈ before, y.toNat ≤ 1) (hx : 1 < x.toNat) :
    bitsOfBytes i (before ++ x :: after) = raise .badBit (i + before.length) := by
  induction before generalizing i with
  | nil => exact if_pos hx
  | cons y before ih =>
    obtain ⟨hy, hbefore⟩ := List.forall_mem_cons.1 hbefore
    rw [List.cons_append, bitsOfBytes, if_neg (by omega), ih _ hbefore, List.length_cons, Nat.add_right_comm,
      Nat.add_assoc]
    rfl

theorem SourceIs.before_length_lt {s : State} {before after : List Byte} {x : Byte}
    (h : SourceIs s (before ++ x :: after)) : before.length < 2 ^ 32 := by
  have := h.length_lt
  rw [List.length_append] at this
  omega

/-- Settles O40: the bits read are those of the source up to the first byte above 1; then the bits packed. -/
theorem packbitsResult : Obligations.PackbitsResult := by
  refine ⟨fun s bits hS hrun => ?_, fun s before after x hS hrun hbefore hx => ?_⟩
  · have hbody : bodyOf .packbits s (bytesOfBits bits) = packedOutput s bits := by
      rw [bodyOf, packbitsBody, bitsOfBytes_bytesOfBits]
      rfl
    exact exec_packed rfl hrun hS hbody
  · have hbody : bodyOf .packbits s (before ++ x :: after) = raise .badBit before.length := by
      rw [bodyOf, packbitsBody, bitsOfBytes_badBit 0 after hbefore hx, Nat.zero_add]
      rfl
    exact exec_packing_raise rfl hrun hS.1 hbody hS.before_length_lt

/-! ### ENCODE -/

theorem encodeBits_of_coded {ct : CodeTable} (i : Nat) {S : List Byte} (h : ∀ y ∈ S, (entry ct y).isSome = true) :
    encodeBits ct i S = .ok (S.flatMap (fun y => (entry ct y).getD [])) := by
  induction S generalizing i with
  | nil => rfl
  | cons y S ih =>
    obtain ⟨hy, hS⟩ := List.forall_mem_cons.1 h
    obtain ⟨code, hcode⟩ := Option.isSome_iff_exists.1 hy
    simp only [encodeBits, lookupCode, hcode, ih _ hS, Run.ok_bind, List.flatMap_cons, Option.getD_some]

theorem encodeBits_noCode {ct : CodeTable} (i : Nat) {before : List Byte} (after : List Byte) {x : Byte}
    (hbefore : ∀ y ∈ before, (entry ct y).isSome = true) (hx : entry ct x = none) :
    encodeBits ct i (before ++ x :: after) = raise .noCode (i + before.length) := by
  induction before generalizing i with
  | nil => simp only [List.nil_append, encodeBits, lookupCode, hx, List.length_nil, Nat.add_zero]
  | cons y before ih =>
    obtain ⟨hy, hbefore⟩ := List.forall_mem_cons.1 hbefore
    obtain ⟨code, hcode⟩ := Option.isSome_iff_exists.1 hy
    simp only [List.cons_append, encodeBits, lookupCode, hcode, ih _ hbefore, List.length_cons]
    rw [Nat.add_right_comm, Nat.add_assoc]
    rfl

/-- Settles O42: the bits are the codes of the source up to the first byte without one; then the bits packed. -/
theorem encodeResult : Obligations.EncodeResult := by
  refine ⟨fun s S bits hS hrun hcoded hbits => ?_, fun s before after x hS hrun hbefore hx => ?_⟩
  · have hbody : bodyOf .encode s S = packedOutput s bits := by
      rw [bodyOf, encodeBody, encodeBits_of_coded 0 hcoded, hbits]
      rfl
    exact exec_packed rfl hrun hS hbody
  · have hbody : bodyOf .encode s (before ++ x :: after) = raise .noCode before.length := by
      rw [bodyOf, encodeBody, encodeBits_noCode 0 after hbefore hx, Nat.zero_add]
      rfl
    exact exec_packing_raise (i := .encode) rfl hrun hS.1 hbody hS.before_length_lt

/-! ### UNPACKBITS -/

@[simp] theorem length_bytesOfBits (bits : Bits) : (bytesOfBits bits).length = bits.length := List.length_map _

theorem getD_bytesOfBits (bits : Bits) (k : Nat) :
    (bytesOfBits bits).getD k 0 = if bits.getD k false then 0x01#8 else 0x00#8 :=
  List.getD_map bits false (fun b : Bool => if b then 0x01#8 else 0x00#8)

/-- Bit `k` of the unpacked bits is bit `7 - k mod 8` of byte `k div 8` (43_bitstream R171). -/
theorem getD_take_flatMap_byteBits (P : List Byte) {k n : Nat} (hk : k < n) :
    ((P.flatMap byteBits).take n).getD k false = (P.getD (k / 8) 0).getLsbD (7 - k % 8) := by
  rw [List.getD_eq_getElem?_getD, List.getElem?_take_of_lt hk, ← List.getD_eq_getElem?_getD,
    ← getD_flatMap_byteBits P _ (Nat.mod_lt k (by decide)), Nat.div_add_mod]

/-- Settles O41: the unpacked bits, one byte each, or the error of `Unpack`. -/
theorem unpackbitsResult : Obligations.UnpackbitsResult := by
  intro s S hS hrun
  have hbody (h7 : s.pad.toNat ≤ 7) (hle : s.pad.toNat ≤ 8 * S.length) : bodyOf .unpackbits s S =
      boundedOutput s.dstCap s (bytesOfBits ((S.flatMap byteBits).take (8 * S.length - s.pad.toNat))) := by
    rw [bodyOf, unpackbitsBody, unpack_of_le h7 hle]
    rfl
  have hlen : (bytesOfBits ((S.flatMap byteBits).take (8 * S.length - s.pad.toNat))).length =
      8 * S.length - s.pad.toNat := by
    rw [length_bytesOfBits, List.length_take, length_flatMap_byteBits]
    omega
  refine ⟨fun h7 hle hfits => ?_, fun h7 hle hlong => ?_, fun hrange => ?_⟩
  · obtain ⟨hexec, hrecord, houtput, hmemory, hframe, hdraws⟩ :=
      succeedsWith_of_fits hrun hS (hbody h7 hle) (hlen.trans_le hfits)
    rw [hlen] at hrecord hmemory
    refine ⟨_, hexec, hrecord, fun k hk => ?_, hmemory, hframe.pad (by decide), hframe.freq (by decide),
      hframe.tree (by decide), hframe.codeTable (by decide), hdraws, hframe.config, hframe.surroundings⟩
    rw [houtput.read (hk.trans_eq hlen.symm), getD_bytesOfBits, getD_take_flatMap_byteBits S hk]
  · have ht := failsWith_of_overflow hrun hS (hbody h7 hle) (hlong.trans_eq hlen.symm)
    rw [hlen] at ht
    exact ⟨_, ht.exec, ht.record, ht.frame.pad (by decide)⟩
  · have herror : bodyOf .unpackbits s S = raise .padRange 0 := by
      rw [bodyOf, unpackbitsBody, unpack_of_padRange hrange]
      rfl
    have ht := failsWith_of_raise hrun hS herror (by decide)
    exact ⟨_, ht.exec, ht.record, ht.frame.pad (by decide)⟩

/-! ### DECODE -/

section
variable {s : State} {S : List Byte}

theorem decodeBody_of_empty (h : s.nodes = []) : decodeBody s S = raise .noTree 0 := if_pos h

theorem decodeBody_of_padRange (hne : s.nodes ≠ []) (h : 7 < s.pad.toNat ∨ 8 * S.length < s.pad.toNat) :
    decodeBody s S = raise .padRange 0 := by
  rw [decodeBody, if_neg hne, unpack_of_padRange h]
  rfl

theorem decodeBody_of_unpack {bits : Bits} (hne : s.nodes ≠ []) (h : unpack S s.pad.toNat = .ok bits) :
    decodeBody s S = walk s.nodes s.root bits >>= boundedOutput s.dstCap s := by
  rw [decodeBody, if_neg hne, h]
  rfl

end

/-- Settles O43: `Unpack` gives the paths back, `Walk` the leaves' symbols. -/
theorem decodeResult : Obligations.DecodeResult := by
  intro s leaves hok htwo hpaths hS hpad hrun
  have hbody : bodyOf .decode s (pack (leaves.flatMap (fun p => p.2))).1 =
      boundedOutput s.dstCap s (leaves.map (fun p => p.1)) := by
    rw [bodyOf, decodeBody_of_unpack (ne_nil_of_leafCount_pos (by omega)) (hpad ▸ unpack_pack _),
      walk_leaves hok htwo hpaths]
    rfl
  have hlen : (leaves.map (fun p => p.1)).length = leaves.length := List.length_map _
  refine ⟨fun hfits => ?_, fun hlong => ?_⟩
  · have ht := succeedsWith_of_fits hrun hS hbody (hlen.trans_le hfits)
    have hrecord := ht.record
    have hmemory := ht.memory
    rw [hlen] at hrecord hmemory
    exact ⟨_, ht.exec, hrecord, ht.output, hmemory, ht.frame.freq (by decide), ht.frame.tree (by decide),
      ht.frame.codeTable (by decide), ht.frame.pad (by decide), ht.draws, ht.frame.config, ht.frame.surroundings⟩
  · have ht := failsWith_of_overflow hrun hS hbody (hlong.trans_eq hlen.symm)
    rw [hlen] at ht
    exact ⟨_, ht.exec, ht.record, ht.frame.pad (by decide), ht.frame.freq (by decide), ht.frame.tree (by decide),
      ht.frame.codeTable (by decide), ht.memory⟩

/-- Settles O44: the tree's presence, then the range of `PAD`, then the walk over the payload's bits. -/
theorem decodeErrors : Obligations.DecodeErrors := by
  intro s S hS hrun hok
  have fails {code : ErrorCode} {pos : Nat} (h : decodeBody s S = raise code pos) (hpos : pos < 2 ^ 32) :
      ∃ t, exec .decode s = .next t ∧ t.completedWith 0 code.value pos :=
    have ht := failsWith_of_raise (i := .decode) hrun hS.1 h hpos
    ⟨_, ht.exec, ht.record⟩
  refine ⟨fun hnil => fails (decodeBody_of_empty hnil) (by decide),
    fun hne hrange => fails (decodeBody_of_padRange hne hrange) (by decide), fun hleaf h7 hlt => ?_,
    fun hleaf h7 heq => ?_, fun leaves rest m w l r htwo hpaths hne hrest hm hbytes hpad => ?_⟩
  · have hbits : (S.flatMap byteBits).take (8 * S.length - s.pad.toNat) ≠ [] := by
      rw [← List.length_pos_iff, List.length_take, length_flatMap_byteBits]
      omega
    refine fails (code := .walkNoChild) (pos := 0) ?_ (by decide)
    rw [decodeBody_of_unpack (ne_nil_of_leafCount_pos (by omega)) (unpack_of_le h7 hlt.le),
      walk_one_leaf hok hleaf hbits]
    rfl
  · have hbody : bodyOf .decode s S = boundedOutput s.dstCap s [] := by
      rw [bodyOf, decodeBody_of_unpack (ne_nil_of_leafCount_pos (by omega)) (unpack_of_le h7 heq.le), heq, Nat.sub_self,
        List.take_zero, walk_nil]
      rfl
    have ht := succeedsWith_of_fits hrun hS.1 hbody (Nat.zero_le _)
    exact ⟨_, ht.exec, ht.record⟩
  · refine fails (code := .walkIncomplete) ?_ (sat32_lt _)
    have hunpack : unpack S s.pad.toNat = .ok (leaves.flatMap (fun p => p.2) ++ rest) := by
      rw [hbytes, hpad, unpack_pack]
    rw [decodeBody_of_unpack (ne_nil_of_leafCount_pos (by omega)) hunpack, walk_incomplete hok htwo hpaths hne hrest hm]
    rfl

end Sys2Proof.Machine

/-! ## Paths in a deserialized tree (42_serializer R144, 43_bitstream R172)

`Deser` keeps a tree's shape and loses its indices and weights. A path then leads to a node of the same kind. -/

namespace Sys2Proof.Machine

/-- In trees of the same shape a path leads to nodes of the same kind: leaves of one symbol, or internal nodes. -/
theorem Tree.InArena.exists_follow_of_shape_eq {nodes nodes' : List Node} {t t' : Tree} (h : t.InArena nodes)
    (h' : t'.InArena nodes') (hshape : t'.shape = t.shape) {path : Bits} {m : Nat}
    (hm : follow nodes t.index path = some m) :
    ∃ m', follow nodes' t'.index path = some m' ∧ nodes'[m']?.map Node.leafSym = nodes[m]?.map Node.leafSym := by
  induction t generalizing t' path with
  | leaf n sym =>
    cases t' with
    | node n' l' r' => cases hshape
    | leaf n' sym' =>
      obtain ⟨w, hw⟩ := h
      obtain ⟨w', hw'⟩ := h'
      cases hshape
      cases path with
      | nil =>
        cases hm
        exact ⟨n', rfl, by simp [hw, hw', Node.leafSym]⟩
      | cons b path => simp [follow, hw] at hm
  | node n l r ihl ihr =>
    cases t' with
    | leaf n' sym' => cases hshape
    | node n' l' r' =>
      obtain ⟨⟨w, i, j, hn, hi, hj⟩, hl, hr⟩ := h
      obtain ⟨⟨w', i', j', hn', hi', hj'⟩, hl', hr'⟩ := h'
      obtain ⟨hshapel, hshaper⟩ : l'.shape = l.shape ∧ r'.shape = r.shape := by simpa [Tree.shape] using hshape
      cases path with
      | nil =>
        cases hm
        exact ⟨n', rfl, by simp [hn, hn', Node.leafSym]⟩
      | cons b path =>
        cases b with
        | false => simpa [follow, hn', hi'] using ihl hl hl' hshapel (by simpa [follow, hn, hi] using hm)
        | true => simpa [follow, hn', hj'] using ihr hr hr' hshaper (by simpa [follow, hn, hj] using hm)

section
variable {nodes : List Node} {root : NodeIndex} {t : Tree}

/-- The layout that `Deser` makes of an arena's text has the arena's paths. -/
theorem SpansArena.exists_follow_layout (h : SpansArena nodes root t) (hlen : nodes.length ≤ Config.maxNodes)
    {path : Bits} {m : Nat} (hm : follow nodes root.toNat path = some m) :
    ∃ m', follow (t.layout 0) 0 path = some m' ∧ (t.layout 0)[m']?.map Node.leafSym = nodes[m]?.map Node.leafSym := by
  have hlayout := Tree.spansArena_layout (h.length_indices.trans_le hlen)
  rw [← h.index] at hm
  simpa using h.inArena.exists_follow_of_shape_eq hlayout.inArena (t.shape_renumber 0) hm

theorem SpansArena.leadsToLeaf_layout (h : SpansArena nodes root t) (hlen : nodes.length ≤ Config.maxNodes)
    {path : Bits} {sym : Byte} (hpath : LeadsToLeaf nodes root path sym) : LeadsToLeaf (t.layout 0) 0 path sym := by
  obtain ⟨m, w, hm, hleaf⟩ := hpath
  obtain ⟨m', hm', hkind⟩ := h.exists_follow_layout hlen hm
  rw [hleaf] at hkind
  obtain ⟨n, hn, hsym⟩ := Option.map_eq_some_iff.1 hkind
  cases n with
  | leaf sym' w' => cases hsym; exact ⟨m', w', hm', hn⟩
  | internal w' l r => cases hsym

/-- A path to an internal node leads to an internal node of the layout. -/
theorem SpansArena.exists_internal_layout (h : SpansArena nodes root t) (hlen : nodes.length ≤ Config.maxNodes)
    {path : Bits} {m : Nat} {w : Word} {l r : NodeIndex} (hm : follow nodes root.toNat path = some m)
    (hinner : nodes[m]? = some (.internal w l r)) :
    ∃ m' w' l' r', follow (t.layout 0) 0 path = some m' ∧ (t.layout 0)[m']? = some (.internal w' l' r') := by
  obtain ⟨m', hm', hkind⟩ := h.exists_follow_layout hlen hm
  rw [hinner] at hkind
  obtain ⟨n, hn, hsym⟩ := Option.map_eq_some_iff.1 hkind
  cases n with
  | leaf sym' w' => cases hsym
  | internal w' l' r' => exact ⟨m', w', l', r', hm', hn⟩

end

@[simp] theorem Tree.leafSyms_renumber (t : Tree) (k : Nat) : (t.renumber k).leafSyms = t.leafSyms := by
  induction t generalizing k with
  | leaf n sym => rfl
  | node n l r ihl ihr => simp [Tree.renumber, Tree.leafSyms, ihl, ihr]

theorem Tree.leafCount_layout {t : Tree} (h : t.indices.length ≤ Config.maxNodes) :
    leafCount (t.layout 0) = t.leafSyms.length := by
  rw [(Tree.spansArena_layout h).leafCount_eq, t.leafSyms_renumber]

theorem Tree.arenaOk_layout {t : Tree} (h : t.indices.length ≤ Config.maxNodes) : ArenaOk (t.layout 0) 0 :=
  (Tree.spansArena_layout h).arenaOk ((t.length_layout 0).trans_le h)

/-- An arena with an internal root has two leaves or more. -/
theorem ArenaOk.two_le_leafCount {nodes : List Node} {root : NodeIndex} (hok : ArenaOk nodes root) {w : Word}
    {l r : NodeIndex} (hroot : nodes[root.toNat]? = some (.internal w l r)) : 2 ≤ leafCount nodes := by
  obtain ⟨t, ht⟩ := hok.exists_spansArena (by rintro rfl; cases hroot)
  have hpos : 0 < leafCount nodes := ht.leafCount_eq ▸ t.leafSyms_length_pos
  by_contra hlt
  obtain ⟨sym, w', hleaf⟩ := hok.root_leaf (by omega)
  simp [hroot] at hleaf

end Sys2Proof.Machine

/-! ## What DECOMPRESS ends with (44_container R201) -/

namespace Sys2Proof.Machine

theorem findZero_of_not_mem {rest : List Byte} (h : 0x00#8 ∉ rest) : findZero rest = none := by
  induction rest with
  | nil => rfl
  | cons b rest ih =>
    obtain ⟨hb, hrest⟩ := not_or.1 (mt List.mem_cons.2 h)
    rw [findZero, if_neg (show b ≠ 0 from Ne.symm hb), ih hrest]
    rfl

/-- The separator is the first zero byte. -/
theorem findZero_of_split {T : List Byte} (h : 0x00#8 ∉ T) (B : List Byte) :
    findZero (T ++ 0x00#8 :: B) = some T.length := by
  induction T with
  | nil => rfl
  | cons b T ih =>
    obtain ⟨hb, hT⟩ := not_or.1 (mt List.mem_cons.2 h)
    rw [List.cons_append, findZero, if_neg (show b ≠ 0 from Ne.symm hb), ih hT]
    rfl

section
variable {s : State} {p : Byte} {rest T B : List Byte} {nodes : List Node}

theorem decompressBody_of_noSep (h : 0x00#8 ∉ rest) :
    decompressBody s (p :: rest) = raise .noSep (sat32 (rest.length + 1)) := by
  rw [decompressBody, decompressRun, decompressData, findZero_of_not_mem h]
  rfl

/-- What DECOMPRESS writes beside its output. -/
def decompressed (s : State) (p : Byte) (nodes : List Node) : State := ((s.setTree nodes 0).clearCT).setPad p

/-- DECOMPRESS of a source cut at its separator: the tree text, then the payload, then the walk. -/
theorem decompressBody_of_split (hT : 0x00#8 ∉ T) :
    decompressBody s (p :: (T ++ 0x00#8 :: B)) = (do
      let nodes ← deser T 1
      let bits ← unpack B p.toNat
      let out ← walk nodes 0 bits
      boundedOutput s.dstCap (decompressed s p nodes) out) := by
  have htext : (T ++ 0x00#8 :: B).take T.length = T := List.take_left
  have hpayload : (T ++ 0x00#8 :: B).drop (T.length + 1) = B := by simp [List.drop_append]
  simp only [decompressBody, decompressRun, decompressData, findZero_of_split hT, htext, hpayload, bind_assoc,
    Run.ok_bind, decompressed]

theorem decompressBody_of_deserError (hT : 0x00#8 ∉ T) {e : ErrorCode} {pos : Nat} (h : deser T 1 = raise e pos) :
    decompressBody s (p :: (T ++ 0x00#8 :: B)) = raise e pos := by
  rw [decompressBody_of_split hT, h]
  rfl

theorem decompressBody_of_padRange (hT : 0x00#8 ∉ T) (hnodes : deser T 1 = .ok nodes)
    (h : 7 < p.toNat ∨ 8 * B.length < p.toNat) :
    decompressBody s (p :: (T ++ 0x00#8 :: B)) = raise .padRange 0 := by
  rw [decompressBody_of_split hT, hnodes, unpack_of_padRange h]
  rfl

theorem decompressBody_of_unpack (hT : 0x00#8 ∉ T) (hnodes : deser T 1 = .ok nodes) {bits : Bits}
    (hbits : unpack B p.toNat = .ok bits) :
    decompressBody s (p :: (T ++ 0x00#8 :: B)) =
      walk nodes 0 bits >>= boundedOutput s.dstCap (decompressed s p nodes) := by
  rw [decompressBody_of_split hT, hnodes, hbits]
  rfl

end

/-- An error of DECOMPRESS clears its write set (60_exceptions R224). -/
theorem exec_decompress_of_raise {s : State} {S : List Byte} {e : ErrorCode} {pos : Nat} (hrun : CanRun .decompress s)
    (hS : s.snap = some S) (h : decompressBody s S = raise e pos) (hpos : pos < 2 ^ 32) :
    ∃ t, exec .decompress s = .next t ∧ t.completedWith 0 e.value pos ∧ TreeCleared t ∧ CodeTableCleared t ∧
      t.pad = 0 ∧ t.freq = s.freq ∧ SameMemoryButDestination s t := by
  have ht := failsWith_of_raise (i := .decompress) hrun hS h hpos
  exact ⟨_, ht.exec, ht.record, ⟨rfl, rfl⟩, codeTableCleared_of_eq rfl rfl, ht.pad rfl, ht.frame.freq (by decide),
    ht.memory⟩

/-- An error of the text before the separator, at its container offset (44_container R201). -/
theorem exec_decompress_of_textError {s : State} {p code : Byte} {T B : List Byte} {pos : Nat}
    (hrun : CanRun .decompress s) (hS : s.snap = some (p :: (T ++ 0x00#8 :: B))) (hT : 0x00#8 ∉ T)
    (herr : TextError T 1 code pos) (hlen : 1 + T.length < 2 ^ 32) :
    ∃ t, exec .decompress s = .next t ∧ t.completedWith 0 code pos ∧ TreeCleared t ∧ CodeTableCleared t ∧
      t.pad = 0 ∧ t.freq = s.freq ∧ SameMemoryButDestination s t := by
  obtain ⟨e, rfl, hdeser⟩ := herr.deser_eq
  exact exec_decompress_of_raise hrun hS (decompressBody_of_deserError hT hdeser) (herr.pos_le.trans_lt hlen)

/-- The tree text of an arena without the symbol 0x00 has no zero byte (42_serializer R145). -/
theorem SpansArena.zero_not_mem_ser {nodes : List Node} {root : NodeIndex} {t : Tree} (h : SpansArena nodes root t)
    (hzero : 0x00#8 ∉ leafSymbols nodes) : 0x00#8 ∉ t.ser := by
  rwa [t.zero_mem_ser_iff, h.leafSyms_perm.mem_iff]

/-- `PAD` as the container's first byte gives the bits back. -/
theorem unpack_pack_padByte (bits : Bits) : unpack (pack bits).1 (BitVec.ofNat 8 (pack bits).2).toNat = .ok bits := by
  rw [pack_snd, toNat_ofNat_padCount, ← pack_snd, unpack_pack]

/-- Settles O48: the text gives the tree's layout, in which the payload's paths lead to the same symbols. -/
theorem decompressResult : Obligations.DecompressResult := by
  intro s nodes root tr T leaves hok htwo hzero htr hser hpaths hS hrun
  have hspans := hok.spansArena htr
  have hindices : tr.indices.length ≤ Config.maxNodes := hspans.length_indices.trans_le hok.1
  cases (ser_of_arenaTree htr).symm.trans hser
  have hwalk : walk (tr.layout 0) 0 (leaves.flatMap (fun p => p.2)) = .ok (leaves.map (fun p => p.1)) :=
    walk_leaves (Tree.arenaOk_layout hindices)
      (by rwa [Tree.leafCount_layout hindices, ← hspans.leafCount_eq])
      fun p hp => hspans.leadsToLeaf_layout hok.1 (hpaths p hp)
  have hbody := decompressBody_of_unpack (s := s) (hspans.zero_not_mem_ser hzero) (Tree.deser_ser hindices 1)
    (unpack_pack_padByte (leaves.flatMap (fun p => p.2)))
  rw [hwalk, Run.ok_bind] at hbody
  have hlen : (leaves.map (fun p => p.1)).length = leaves.length := List.length_map _
  refine ⟨fun hfits => ?_, fun hlong => ?_⟩
  · have ht := succeedsWith_of_fits (i := .decompress) hrun hS hbody (hlen.trans_le hfits)
    have hrecord := ht.record
    have hmemory := ht.memory
    rw [hlen] at hrecord hmemory
    exact ⟨_, tr.renumber 0, ht.exec, hrecord, ht.output, hmemory, (Tree.spansArena_layout hindices).arenaTree_eq,
      tr.shape_renumber 0, rfl, codeTableCleared_of_eq rfl rfl, toNat_ofNat_padCount _, ht.frame.freq (by decide),
      ht.draws, ht.frame.config, ht.frame.surroundings⟩
  · rw [← hlen] at hlong ⊢
    exact exec_decompress_of_raise hrun hS (hbody.trans (if_pos hlong)) (sat32_lt _)

/-- Settles O49: the first step of DECOMPRESS that raises decides: the separator, the text, the payload, the walk. -/
theorem decompressErrors : Obligations.DecompressErrors := by
  intro s p rest hS hrun
  have fails {e : ErrorCode} {pos : Nat} (h : decompressBody s (p :: rest) = raise e pos) (hpos : pos < 2 ^ 32) :=
    exec_decompress_of_raise hrun hS.1 h hpos
  have hlen : rest.length + 1 < 2 ^ 32 := hS.length_lt
  refine ⟨fun hnone => ?_, ?_⟩
  · refine fails (e := .noSep) ?_ hlen
    rw [decompressBody_of_noSep hnone, sat32_of_le (by omega)]
  rintro T B rfl hT
  rw [List.length_append, List.length_cons] at hlen
  refine ⟨fun code pos herr => exec_decompress_of_textError hrun hS.1 hT herr (by omega), fun chars n htext => ?_,
    fun nodes root leaves last m w l r hok hser hpaths hne hlast hm hB hp => ?_⟩
  · obtain ⟨nodes, hdeser, hcount, -⟩ := htext.deser_eq 1
    refine ⟨fun hrange => fails (decompressBody_of_padRange hT hdeser hrange) (by decide), fun hone h7 hlt => ?_⟩
    obtain ⟨hok, hne⟩ := deser_arenaOk hdeser
    obtain ⟨t, ht⟩ := hok.exists_spansArena hne
    have hleaf : leafCount nodes = 1 := by
      have := ht.length_eq
      omega
    have hbits : (B.flatMap byteBits).take (8 * B.length - p.toNat) ≠ [] := by
      rw [← List.length_pos_iff, List.length_take, length_flatMap_byteBits]
      omega
    refine fails (e := .walkNoChild) (pos := 0) ?_ (by decide)
    rw [decompressBody_of_unpack hT hdeser (unpack_of_le h7 hlt.le), walk_one_leaf hok hleaf hbits]
    rfl
  · obtain ⟨t, hspans⟩ := hok.exists_spansArena (by rintro rfl; simp at hm)
    cases (ser_of_arenaTree hspans.arenaTree_eq).symm.trans hser
    have hindices : t.indices.length ≤ Config.maxNodes := hspans.length_indices.trans_le hok.1
    obtain ⟨m', w', l', r', hlast', hm'⟩ := hspans.exists_internal_layout hok.1 hlast hm
    have hunpack : unpack B p.toNat = .ok (leaves.flatMap (fun q => q.2) ++ last) := by rw [hB, hp, unpack_pack]
    obtain ⟨_, _, _, hroot⟩ := exists_internal_of_follow hlast' hm'
    have hok' := Tree.arenaOk_layout hindices
    refine fails (e := .walkIncomplete) ?_ (sat32_lt _)
    rw [decompressBody_of_unpack hT (Tree.deser_ser hindices 1) hunpack, walk_incomplete hok'
      (hok'.two_le_leafCount hroot) (fun q hq => hspans.leadsToLeaf_layout hok.1 (hpaths q hq)) hne hlast' hm']
    rfl

end Sys2Proof.Machine

/-! ## The container of a source (44_container R200)

The tree of a source's counts has the source's bytes as its leaf symbols, each once. So the source has a code table, and
COMPRESS ends with its container. -/

namespace Sys2Proof.Machine

section
variable {x : List Byte} {nodes : List Node} {root : NodeIndex}

theorem mem_presentSymbols_countTable (hlen : x.length < 2 ^ 32) (y : Byte) :
    y ∈ presentSymbols (countTable x) ↔ y ∈ x := by
  have hcount : entry (countTable x) y ≠ 0 ↔ y ∈ x := by
    rw [Ne, ← BitVec.toNat_inj, toNat_entry_countTable hlen]
    exact List.count_eq_zero.not_left
  simpa [presentSymbols] using hcount

theorem length_presentSymbols_countTable (hlen : x.length < 2 ^ 32) :
    (presentSymbols (countTable x)).length = x.dedup.length := by
  refine List.Perm.length_eq ((List.perm_ext_iff_of_nodup (symbols_nodup.filter _) x.nodup_dedup).2 fun y => ?_)
  rw [List.mem_dedup]
  exact mem_presentSymbols_countTable hlen y

theorem totalCount_countTable_fits (hlen : x.length < 2 ^ 32) : totalCount (countTable x) ≤ 0xFFFFFFFF := by
  have := totalCount_countTable_le x
  omega

theorem exists_buildTree_countTable (hlen : x.length < 2 ^ 32) (hne : x ≠ []) :
    ∃ nodes root, buildTree (countTable x) = .ok (nodes, root) := by
  obtain ⟨y, hy⟩ := List.exists_mem_of_ne_nil x hne
  refine exists_buildTree_eq_ok (List.ne_nil_of_mem (a := y) ?_)
  exact (mem_presentSymbols_countTable hlen y).2 hy

/-- The leaf symbols of the tree built are the source's bytes. -/
theorem mem_leafSymbols_of_buildTree (hlen : x.length < 2 ^ 32) (h : buildTree (countTable x) = .ok (nodes, root))
    (y : Byte) : y ∈ leafSymbols nodes ↔ y ∈ x := by
  rw [buildTree_leafSymbols (totalCount_countTable_fits hlen) h, mem_presentSymbols_countTable hlen]

theorem leafCount_of_buildTree (hlen : x.length < 2 ^ 32) (h : buildTree (countTable x) = .ok (nodes, root)) :
    leafCount nodes = x.dedup.length := by
  rw [buildTree_leafCount (totalCount_countTable_fits hlen) h, length_presentSymbols_countTable hlen]

/-- The tree built has a code table, in which every byte of the source has a code. -/
theorem exists_codes_of_buildTree (hlen : x.length < 2 ^ 32) (h : buildTree (countTable x) = .ok (nodes, root)) :
    ∃ ct, codes nodes root = .ok ct ∧ ∀ y ∈ x, (entry ct y).isSome = true := by
  obtain ⟨t, ht⟩ := (buildTree_spans h).1
  have hnodup : t.leafSyms.Nodup := by
    rw [ht.leafSyms_perm.nodup_iff, buildTree_leafSymbols (totalCount_countTable_fits hlen) h]
    exact symbols_nodup.filter _
  refine ⟨_, ht.codes_eq hnodup, fun y hy => ?_⟩
  rw [← mem_leafSymbols_of_buildTree hlen h, ← ht.leafSyms_perm.mem_iff, ← t.leafCodes_map_fst []] at hy
  obtain ⟨c, hc, rfl⟩ := List.mem_map.1 hy
  rw [Tree.entry_tableOfCodes hnodup hc]
  rfl

/-- What COMPRESS writes beside its output. -/
def compressed (s : State) (x : List Byte) (nodes : List Node) (root : NodeIndex) (ct : CodeTable) : State :=
  (((s.setFreq (countTable x)).setTree nodes root).setCT ct).setPad (BitVec.ofNat 8 (pack (codeString ct x)).2)

theorem compressBody_eq {s : State} {ct : CodeTable} {T : List Byte} (hne : x ≠ [])
    (hbuild : buildTree (countTable x) = .ok (nodes, root)) (hcodes : codes nodes root = .ok ct)
    (hser : ser nodes root = .ok T) :
    compressBody s x = boundedOutput s.dstCap (compressed s x nodes root ct)
      (container (pack (codeString ct x)).2 T (pack (codeString ct x)).1) := by
  rw [compressBody, compressRun, if_neg hne, compressData, hbuild]
  simp only [Run.ok_bind, hcodes, hser, compressed]

end

/-! ### COMPRESS -/

/-- Settles O46: the pseudocode of COMPRESS ends with the tables and the container of the source. -/
theorem compressResult : Obligations.CompressResult := by
  intro s x hS hne hrun
  obtain ⟨nodes, root, hbuild⟩ := exists_buildTree_countTable hS.length_lt hne
  obtain ⟨ct, hcodes, hcoded⟩ := exists_codes_of_buildTree hS.length_lt hbuild
  have hok := (buildTree_arenaOk hbuild).1
  obtain ⟨t, htree⟩ := (buildTree_spans hbuild).1
  have hser := ser_of_arenaTree htree.arenaTree_eq
  have hbody : bodyOf .compress s x = _ := compressBody_eq hne hbuild hcodes hser
  refine ⟨nodes, root, ct, t.ser, _, hbuild, hok, hcodes, hser, hcoded, rfl, fun hfits => ?_, fun hlong => ?_⟩
  · have ht := succeedsWith_of_fits hrun hS.1 hbody hfits
    have hpad := padCount_le (codeString ct x)
    exact ⟨_, ht.exec, ht.record, ht.output, ht.memory, toNat_entry_countTable hS.length_lt, rfl, rfl, rfl, rfl, rfl,
      (toNat_ofNat_padCount _).trans_le hpad, ht.draws, ht.frame.config, ht.frame.surroundings⟩
  · have ht := failsWith_of_overflow hrun hS.1 hbody hlong
    exact ⟨_, ht.exec, ht.record, fun sym => entry_replicate 0 sym, ⟨rfl, rfl⟩, codeTableCleared_of_eq rfl rfl,
      ht.pad rfl, ht.memory⟩

/-- COMPRESS of a non-empty source writes its container, or reports the container's length. -/
theorem exec_compress_containerOf {s : State} {x : List Byte} (hS : SourceIs s x) (hrun : CanRun .compress s)
    (hne : x ≠ []) :
    ∃ c, ContainerOf x c ∧
      (c.length ≤ s.dstCap.toNat →
        ∃ t, exec .compress s = .next t ∧ t.completedWith c.length 0 0 ∧ OutputIs s t c) ∧
      (s.dstCap.toNat < c.length →
        ∃ t, exec .compress s = .next t ∧ t.completedWith 0 0x05#8 (sat32 c.length)) := by
  obtain ⟨nodes, root, ct, T, c, hbuild, -, hcodes, hser, -, hc, hfits, hlong⟩ := compressResult s x hS hne hrun
  refine ⟨c, ⟨nodes, root, ct, T, hbuild, hcodes, hser, hc⟩, fun h => ?_, fun h => ?_⟩
  · obtain ⟨t, hexec, hrecord, houtput, -⟩ := hfits h
    exact ⟨t, hexec, hrecord, houtput⟩
  · obtain ⟨t, hexec, hrecord, -⟩ := hlong h
    exact ⟨t, hexec, hrecord⟩

/-! ### The round trip (44_container R202) -/

/-- A container read apart: the text of a tree that has the source's bytes as leaf symbols, and the packed paths to
them. -/
structure BoxTree (x c : List Byte) (nodes : List Node) (root : NodeIndex) (t : Tree) (path : Byte → Bits) : Prop where
  spans : SpansArena nodes root t
  arenaOk : ArenaOk nodes root
  leafCount : leafCount nodes = x.dedup.length
  mem_leafSymbols : ∀ y, y ∈ leafSymbols nodes ↔ y ∈ x
  paths : ∀ y ∈ x, LeadsToLeaf nodes root (path y) y
  box : c = container (pack (x.flatMap path)).2 t.ser (pack (x.flatMap path)).1

theorem ContainerOf.exists_boxTree {x c : List Byte} (h : ContainerOf x c) (hlen : x.length < 2 ^ 32) :
    ∃ nodes root t path, BoxTree x c nodes root t path := by
  obtain ⟨nodes, root, ct, T, hbuild, hcodes, hser, hc⟩ := h
  obtain ⟨t, ht⟩ := (buildTree_spans hbuild).1
  obtain ⟨ct', hcodes', hcoded⟩ := exists_codes_of_buildTree hlen hbuild
  cases hcodes'.symm.trans hcodes
  cases (ser_of_arenaTree ht.arenaTree_eq).symm.trans hser
  exact ⟨nodes, root, t, fun y => (entry ct y).getD [], ht, (buildTree_arenaOk hbuild).1,
    leafCount_of_buildTree hlen hbuild, mem_leafSymbols_of_buildTree hlen hbuild,
    fun y hy => leadsToLeaf_lookupCode hcodes (hcoded y hy), hc⟩

theorem BoxTree.mem_leafSyms {x c : List Byte} {nodes : List Node} {root : NodeIndex} {t : Tree} {path : Byte → Bits}
    (h : BoxTree x c nodes root t path) (y : Byte) : y ∈ t.leafSyms ↔ y ∈ x := by
  rw [h.spans.leafSyms_perm.mem_iff, h.mem_leafSymbols]

/-- Settles O50: the container holds a tree without the symbol 0x00 and the paths to the source's bytes, which
DECOMPRESS follows. -/
theorem roundTrip : Obligations.RoundTrip := by
  intro s x hS hrun htwo hzero
  obtain ⟨c, hbox, hfits, hlong⟩ := exec_compress_containerOf hS hrun (by rintro rfl; simp at htwo)
  refine ⟨c, hbox, hfits, hlong, fun u hu hrunu hcap => ?_⟩
  obtain ⟨nodes, root, t, path, ht⟩ := hbox.exists_boxTree hS.length_lt
  have htree := ht.spans.arenaTree_eq
  have hpaths : ∀ p ∈ x.map (fun y => (y, path y)), LeadsToLeaf nodes root p.2 p.1 := List.forall_mem_map.2 ht.paths
  have hbits : (x.map (fun y => (y, path y))).flatMap (fun p => p.2) = x.flatMap path := by rw [List.flatMap_map]
  have hu' : u.snap = some (container (pack ((x.map (fun y => (y, path y))).flatMap (fun p => p.2))).2 t.ser
      (pack ((x.map (fun y => (y, path y))).flatMap (fun p => p.2))).1) := by rw [hbits, ← ht.box, hu]
  obtain ⟨v, -, hexec, hrecord, houtput, -⟩ := (decompressResult u nodes root t t.ser _ ht.arenaOk
    (ht.leafCount ▸ htwo) (mt (ht.mem_leafSymbols _).1 hzero) htree (ser_of_arenaTree htree) hpaths hu' hrunu).1
    (by rwa [List.length_map])
  rw [List.length_map] at hrecord
  rw [List.map_map, Function.comp_def, List.map_id'] at houtput
  exact ⟨v, hexec, hrecord, houtput⟩

/-! ### An empty source (44_container R204) -/

/-- Settles O47: both commands end at once with nothing to write but their cleared tables. -/
theorem emptyIdentity : Obligations.EmptyIdentity := by
  rintro s i hS (rfl | rfl) hrun
  · have hbody : bodyOf .compress s [] =
        .ok ((((s.setFreq (countTable [])).clearTree.clearCT).setPad 0), []) := rfl
    have ht := succeedsWith_of_ok hrun hS hbody
    refine ⟨_, ht.exec, ht.record, rfl, rfl, ⟨rfl, rfl⟩, codeTableCleared_of_eq rfl rfl, fun _ sym => ?_, nofun⟩
    exact entry_countTable [] sym
  · have hbody : bodyOf .decompress s [] = .ok ((s.clearTree.clearCT).setPad 0, []) := rfl
    have ht := succeedsWith_of_ok hrun hS hbody
    exact ⟨_, ht.exec, ht.record, rfl, rfl, ⟨rfl, rfl⟩, codeTableCleared_of_eq rfl rfl, nofun, fun _ => rfl⟩

end Sys2Proof.Machine

/-! ## Containers that do not give the data back (44_container R203, R205) -/

namespace Sys2Proof.Machine

/-! ### The first leaf of the symbol 0x00 -/

theorem readText_append {m n m' n' : Nat} {chars : List Nat} (h : readText m n chars = some (m', n'))
    (more : List Nat) : readText m n (chars ++ more) = readText m' n' more := by
  induction m, n, chars using readText.induct with
  | case1 m n =>
    obtain ⟨rfl, rfl⟩ : m = m' ∧ n = n' := by simpa using h
    rfl
  | case2 n c rest => simp at h
  | case3 n rest m ih =>
    rw [Nat.succ_eq_add_one, readText_inner_cons] at h
    rw [Nat.succ_eq_add_one, List.cons_append, readText_inner_cons, ih h]
  | case4 n m hc => simp at h
  | case5 n m sym rest hc ih =>
    rw [Nat.succ_eq_add_one, readText_leaf_cons] at h
    rw [Nat.succ_eq_add_one, List.cons_append, List.cons_append, readText_leaf_cons, ih h]
  | case6 n c rest m h0 h1 => simp [readText_marker h0 h1] at h

/-- A tree's text closes the one subtree it is read for. -/
theorem Tree.readText_chars (t : Tree) (m n : Nat) :
    readText (m + 1) n t.chars = some (m, n + t.indices.length) := by
  induction t generalizing m n with
  | leaf i sym => simp [Tree.chars, Tree.indices]
  | node i l r ihl ihr =>
    rw [Tree.chars, readText_inner_cons, readText_append (ihl (m + 1) (n + 1)), ihr]
    simp only [Tree.indices, List.length_cons, List.length_append]
    congr 2
    omega

/-- The text up to the marker of the first leaf of the symbol 0x00: it has no zero byte, and that leaf's subtree is
due after it. -/
theorem Tree.exists_chars_eq_of_zero {t : Tree} (h : 0x00#8 ∈ t.leafSyms) (m n : Nat) :
    ∃ before after k n', t.chars = before ++ 0x31 :: 0 :: after ∧ 0x00#8 ∉ utf8Text before ∧
      readText (m + 1) n before = some (k + 1, n') ∧ n' < n + t.indices.length := by
  induction t generalizing m n with
  | leaf i sym =>
    obtain rfl := List.mem_singleton.1 h
    exact ⟨[], [], m, n, rfl, by simp, readText_nil, by simp [Tree.indices]⟩
  | node i l r ihl ihr =>
    have hmarker : utf8Bytes 0x30 = [0x30#8] := rfl
    simp only [Tree.indices, List.length_cons, List.length_append]
    by_cases hl : 0x00#8 ∈ l.leafSyms
    · obtain ⟨before, after, k, n', hchars, hzero, hread, hn⟩ := ihl hl (m + 1) (n + 1)
      refine ⟨0x30 :: before, after ++ r.chars, k, n', ?_, ?_, by rwa [readText_inner_cons], by omega⟩
      · simp [Tree.chars, hchars]
      · simpa [hmarker] using hzero
    · have hr : 0x00#8 ∈ r.leafSyms := (List.mem_append.1 h).resolve_left hl
      obtain ⟨before, after, k, n', hchars, hzero, hread, hn⟩ := ihr hr m (n + 1 + l.indices.length)
      refine ⟨0x30 :: (l.chars ++ before), after, k, n', ?_, ?_, ?_, by omega⟩
      · simp [Tree.chars, hchars]
      · have hlzero : 0x00#8 ∉ utf8Text l.chars := by rwa [← l.ser_eq_utf8Text, l.zero_mem_ser_iff]
        simpa [hmarker, hlzero] using hzero
      · rw [readText_inner_cons, readText_append (l.readText_chars (m + 1) (n + 1)), hread]

/-- A tree's text breaks off at its first zero byte: what stands before it ends with a leaf's marker. -/
theorem Tree.exists_ser_eq_of_zero {t : Tree} (h : 0x00#8 ∈ t.leafSyms) (hlen : t.indices.length ≤ Config.maxNodes) :
    ∃ front back, t.ser = front ++ 0x31#8 :: 0x00#8 :: back ∧ 0x00#8 ∉ front ++ [0x31#8] ∧
      ∀ base, TextError (front ++ [0x31#8]) base 0x22#8 (base + (front ++ [0x31#8]).length) := by
  obtain ⟨before, after, k, n, hchars, hzero, hread, hn⟩ := Tree.exists_chars_eq_of_zero h 0 0
  have hmarker : utf8Bytes 0x31 = [0x31#8] := rfl
  have hsymbol : utf8Bytes 0 = [0x00#8] := rfl
  refine ⟨utf8Text before, utf8Text after, ?_, by simpa using hzero, fun base => ?_⟩
  · rw [t.ser_eq_utf8Text, hchars]
    simp [hmarker, hsymbol]
  · refine .noSymbol before k n (by simp [hmarker]) (fun cp hcp => ?_) hread ?_
    · exact Tree.isScalar_of_mem_chars (t := t) (hchars ▸ List.mem_append_left _ hcp)
    · rw [Config.maxNodes] at hlen
      omega

/-- The container of a source with the byte 0x00, cut at its first zero byte after the first byte: a leaf's marker
stands before the cut. -/
theorem BoxTree.exists_split_of_zero {x box : List Byte} {nodes : List Node} {root : NodeIndex} {t : Tree}
    {path : Byte → Bits} (h : BoxTree x box nodes root t path) (hzero : 0x00#8 ∈ x) :
    ∃ p front B, box = p :: ((front ++ [0x31#8]) ++ 0x00#8 :: B) ∧ 0x00#8 ∉ front ++ [0x31#8] ∧
      TextError (front ++ [0x31#8]) 1 0x22#8 (1 + (front ++ [0x31#8]).length) ∧
      1 + (front ++ [0x31#8]).length < 2 ^ 32 := by
  have hindices : t.indices.length ≤ Config.maxNodes := h.spans.length_indices.trans_le h.arenaOk.1
  obtain ⟨front, back, hser, hfront, herr⟩ := Tree.exists_ser_eq_of_zero ((h.mem_leafSyms _).2 hzero) hindices
  have hshort : t.ser.length ≤ 1023 :=
    (serializedLength nodes root _ h.arenaOk h.spans.ne_nil (ser_of_arenaTree h.spans.arenaTree_eq)).2.1
  refine ⟨BitVec.ofNat 8 (pack (x.flatMap path)).2, front, back ++ 0x00#8 :: (pack (x.flatMap path)).1, ?_, hfront,
    herr 1, ?_⟩
  · simp [h.box, container, hser]
  · simp only [hser, List.length_append, List.length_cons, List.length_nil] at hshort ⊢
    omega

/-- Settles O51: DECOMPRESS takes the first zero byte for the separator, and the text before it breaks off after the
marker of a leaf of the symbol 0x00. -/
theorem zeroSymbolFailure : Obligations.ZeroSymbolFailure := by
  intro s x hS hrun hzero
  obtain ⟨box, hbox, hfits, hlong⟩ := exec_compress_containerOf hS hrun (List.ne_nil_of_mem hzero)
  obtain ⟨nodes, root, t, path, ht⟩ := hbox.exists_boxTree hS.length_lt
  obtain ⟨p, front, B, rfl, hfront, herr, hlen⟩ := ht.exists_split_of_zero hzero
  refine ⟨_, 1 + (front ++ [0x31#8]).length, hbox, hfits, hlong, by omega, ?_, fun k h1 hk hget => ?_, ?_,
    fun u hu hrunu => ?_⟩
  · simp [Nat.add_comm 1]
  · obtain ⟨i, rfl⟩ : ∃ i, k = i + 1 := ⟨k - 1, by omega⟩
    rw [List.getElem?_cons_succ, List.getElem?_append_left (by omega)] at hget
    exact hfront (List.mem_of_getElem? hget)
  · simp
  · obtain ⟨v, hexec, hrecord, -⟩ := exec_decompress_of_textError hrunu hu hfront herr hlen
    exact ⟨v, hexec, hrecord⟩

/-! ### One repeated symbol -/

theorem Tree.eq_leaf_of_leafSyms {t : Tree} {sym : Byte} (h : t.leafSyms = [sym]) : ∃ n, t = .leaf n sym := by
  cases t with
  | leaf n sym' => cases h; exact ⟨n, rfl⟩
  | node n l r =>
    have hl := l.leafSyms_length_pos
    have hr := r.leafSyms_length_pos
    have hlen := congrArg List.length h
    rw [Tree.leafSyms, List.length_append, List.length_singleton] at hlen
    omega

/-- The container of one repeated symbol: the text of its leaf and no payload (44_container R205). -/
theorem ContainerOf.eq_of_replicate {n : Nat} {sym : Byte} {c : List Byte}
    (h : ContainerOf (List.replicate (n + 1) sym) c) (hlen : n + 1 < 2 ^ 32) :
    c = container 0 (0x31#8 :: utf8Enc sym) [] := by
  obtain ⟨nodes, root, t, path, ht⟩ := h.exists_boxTree (by rwa [List.length_replicate])
  have hone : leafCount nodes = 1 := by rw [ht.leafCount, List.replicate_dedup n.succ_ne_zero, List.length_singleton]
  obtain ⟨y, hy⟩ := List.length_eq_one_iff.1 (ht.spans.leafCount_eq.symm.trans hone)
  obtain rfl : sym = y := by
    rw [← List.mem_singleton, ← hy, ht.mem_leafSyms]
    exact List.mem_replicate.2 ⟨n.succ_ne_zero, rfl⟩
  obtain ⟨i, rfl⟩ := Tree.eq_leaf_of_leafSyms hy
  have hbits : (List.replicate (n + 1) sym).flatMap path = [] :=
    List.flatMap_eq_nil_iff.2 fun y hy => (ht.paths y hy).eq_nil_of_one_leaf ht.arenaOk hone
  rw [ht.box, hbits]
  rfl

/-- The one-leaf tree without payload: the walk stays at the root (44_container R205). -/
theorem exec_decompress_one_leaf {u : State} {sym : Byte} (hsym : sym ≠ 0)
    (hu : u.snap = some (container 0 (0x31#8 :: utf8Enc sym) [])) (hrun : CanRun .decompress u) :
    ∃ v, exec .decompress u = .next v ∧ v.completedWith 0 0 0 := by
  have hT : 0x00#8 ∉ 0x31#8 :: utf8Enc sym := by simpa [zero_mem_utf8Enc_iff] using hsym.symm
  have hone : (Tree.leaf 0 sym).indices.length ≤ Config.maxNodes := show 1 ≤ Config.maxNodes by decide
  have hbody := decompressBody_of_unpack (s := u) (p := 0) (B := []) (bits := []) hT (Tree.deser_ser hone 1) rfl
  rw [walk_nil, Run.ok_bind] at hbody
  have ht := succeedsWith_of_fits (i := .decompress) hrun hu hbody (Nat.zero_le _)
  exact ⟨_, ht.exec, ht.record⟩

/-- Settles O52: the container holds one leaf and no bit, whatever the number of copies. -/
theorem degenerateRoundTrip : Obligations.DegenerateRoundTrip := by
  intro s n sym hS hrun hsym
  have hlen : n + 1 < 2 ^ 32 := by simpa using hS.length_lt
  obtain ⟨c, hbox, hfits, -⟩ := exec_compress_containerOf hS hrun (by simp)
  obtain rfl := hbox.eq_of_replicate hlen
  refine ⟨_, rfl, ?_, hfits, fun u hu hrunu => exec_decompress_one_leaf hsym hu hrunu⟩
  have hsize := utf8Enc_length sym
  have hle : [sym].countP (fun sym => decide (0x80 ≤ sym.toNat)) ≤ 1 := List.countP_le_length
  simp only [List.length_append, List.length_cons, List.length_nil] at hsize ⊢
  omega

end Sys2Proof.Machine

/-! ## Errors, start checks and the interrupt line (60_exceptions R222, R224, R227) -/

namespace Sys2Proof.Machine

/-! ### The start checks (60_exceptions R222) -/

theorem cmdInfo_readsSrc_iff (i : Instr) :
    (cmdInfo i).readsSrc = true ↔
      i ∈ [Instr.compress, .decompress, .count, .deserialize, .encode, .decode, .packbits, .unpackbits] := by
  cases i <;> decide

theorem cmdInfo_writesDst_iff (i : Instr) :
    (cmdInfo i).writesDst = true ↔
      i ∈ [Instr.compress, .decompress, .serialize, .encode, .decode, .packbits, .unpackbits] := by
  cases i <;> decide

theorem State.srcRegion_inRange_iff (s : State) :
    s.srcRegion.inRange = true ↔ ¬s.srcAddr.toNat + s.srcLen.toNat > 2 ^ 32 :=
  (Region.inRange_iff _).trans not_lt.symm

theorem State.dstRegion_inRange_iff (s : State) :
    s.dstRegion.inRange = true ↔ ¬s.dstAddr.toNat + s.dstCap.toNat > 2 ^ 32 :=
  (Region.inRange_iff _).trans not_lt.symm

theorem State.srcRegion_overlaps_dstRegion_iff (s : State) :
    s.srcRegion.overlaps s.dstRegion = true ↔
      s.srcLen ≠ 0 ∧ s.dstCap ≠ 0 ∧ s.srcAddr.toNat < s.dstAddr.toNat + s.dstCap.toNat ∧
        s.dstAddr.toNat < s.srcAddr.toNat + s.srcLen.toNat := by
  have hlen : ∀ w : Word, w.toNat ≠ 0 ↔ w ≠ 0 := fun w => BitVec.toNat_ne_iff_ne (y := 0)
  simp only [Region.overlaps_iff, State.srcRegion, State.dstRegion, hlen]

section
variable {c : CmdInfo} {s : State}

theorem startCheck_of_src_out (hr : c.readsSrc = true) (hsrc : ¬s.srcRegion.inRange = true) :
    startCheck c s = some .rangeSrc := by
  simp [startCheck, hr, hsrc]

theorem startCheck_of_dst_out (hw : c.writesDst = true) (hdst : ¬s.dstRegion.inRange = true)
    (hsrc : c.readsSrc = true → s.srcRegion.inRange = true) : startCheck c s = some .rangeDst := by
  simpa [startCheck, hw, hdst] using hsrc

theorem startCheck_of_overlap (hr : c.readsSrc = true) (hw : c.writesDst = true)
    (hover : s.srcRegion.overlaps s.dstRegion = true) (hsrc : s.srcRegion.inRange = true)
    (hdst : s.dstRegion.inRange = true) : startCheck c s = some .overlap := by
  simp [startCheck, hr, hw, hover, hsrc, hdst]

end

/-- The first check that fails decides the error, whatever the platform's check says (log entry 15). -/
theorem exec_of_startCheck {i : Instr} {s : State} {code : ErrorCode} (h : startCheck (cmdInfo i) s = some code) :
    exec i s = .next (s.completeStartError code) := by
  rw [exec_eq_complete, complete_of_startCheck h]

/-- Settles O18: a reserved opcode ends at the `CMD` write; each other check is reached when those before it pass. -/
theorem startChecksInOrder : Obligations.StartChecksInOrder := by
  intro s i src dst srcOut dstOut overlap failsWith
  have hread : (cmdInfo i).readsSrc = true ↔ src := cmdInfo_readsSrc_iff i
  have hwrite : (cmdInfo i).writesDst = true ↔ dst := cmdInfo_writesDst_iff i
  have hsrcIn : s.srcRegion.inRange = true ↔ ¬srcOut := s.srcRegion_inRange_iff
  have hdstIn : s.dstRegion.inRange = true ↔ ¬dstOut := s.dstRegion_inRange_iff
  have hover : s.srcRegion.overlaps s.dstRegion = true ↔ overlap := s.srcRegion_overlaps_dstRegion_iff
  refine ⟨fun v hb hv => ?reserved, fun hs ho => exec_of_startCheck (code := .rangeSrc) ?rangeSrc,
    fun hd ho hns => exec_of_startCheck (code := .rangeDst) ?rangeDst,
    fun hs hd ho hsi hdi => exec_of_startCheck (code := .overlap) ?overlap⟩
  case reserved =>
    obtain ⟨-, hreserved, -⟩ := cmdWriteAcceptance s v
    exact ⟨_, hreserved hb hv, rfl, hb⟩
  case rangeSrc => exact startCheck_of_src_out (hread.2 hs) (hsrcIn.not.2 (not_not.2 ho))
  case rangeDst =>
    exact startCheck_of_dst_out (hwrite.2 hd) (hdstIn.not.2 (not_not.2 ho))
      fun hr => hsrcIn.2 fun hout => hns ⟨hread.1 hr, hout⟩
  case overlap => exact startCheck_of_overlap (hread.2 hs) (hwrite.2 hd) (hover.2 ho) (hsrcIn.2 hsi) (hdstIn.2 hdi)

/-! ### The effects of an error (60_exceptions R224) -/

theorem ErrorCode.value_mem_startErrors_iff (code : ErrorCode) :
    code.value ∈ [0x02#8, 0x03#8, 0x04#8] ↔ code = .rangeSrc ∨ code = .rangeDst ∨ code = .overlap := by
  cases code <;> decide

/-- Each item of the write set of `c` is cleared (10_state R53). -/
structure WriteSetCleared (c : CmdInfo) (t : State) : Prop where
  freq : c.writesFreq = true → ∀ sym, entry t.freq sym = 0
  tree : c.writesTree = true → TreeCleared t
  codeTable : c.writesCt = true → CodeTableCleared t
  pad : c.writesPad = true → t.pad = 0

theorem State.completeError_cleared (s : State) (c : CmdInfo) (code : ErrorCode) (pos : Nat) :
    WriteSetCleared c (s.completeError c code pos) where
  freq hc sym := by simp [State.completeError, hc]
  tree hc := by simp [TreeCleared, State.completeError, hc]
  codeTable hc := by simp [CodeTableCleared, State.completeError, hc]
  pad hc := by simp [State.completeError, hc]

/-- The two kinds of error: one of the start checks changes the record alone, any other clears the write set. -/
theorem exec_error_cases {i : Instr} {s t : State} (h : exec i s = .next t) (h0 : t.errCode ≠ 0) :
    t.outLen = 0 ∧
      ((t.errCode ∈ [0x02#8, 0x03#8, 0x04#8] ∧ ∃ code, t = s.completeStartError code) ∨
        (t.errCode ∉ [0x02#8, 0x03#8, 0x04#8] ∧ WriteSetCleared (cmdInfo i) t)) := by
  rcases exec_next_cases h with ⟨code, hcheck, rfl⟩ | ⟨-, -, code, pos, -, hcontent, rfl⟩ | ⟨-, -, s', out, -, -, rfl⟩
  · exact ⟨rfl, .inl ⟨code.value_mem_startErrors_iff.2 (startCheck_cases hcheck), code, rfl⟩⟩
  · obtain ⟨⟨-, hsrc, hdst, hover⟩, -⟩ := hcontent
    have hnot : ¬(code = .rangeSrc ∨ code = .rangeDst ∨ code = .overlap) := by simp [hsrc, hdst, hover]
    exact ⟨rfl, .inr ⟨code.value_mem_startErrors_iff.not.2 hnot, s.completeError_cleared _ code pos⟩⟩
  · exact absurd rfl h0

/-- Settles O20: the record and the frame are those of any completion; the kind of error decides whether the rest is
unchanged or the write set cleared. -/
theorem errorEffects : Obligations.ErrorEffects := by
  intro s t i h h0
  rw [← cmdInfo_writesFreq_iff, ← cmdInfo_writesTree_iff, ← cmdInfo_writesCt_iff, ← cmdInfo_writesPad_iff]
  obtain ⟨hbusy, hdone, hop, hsnap⟩ := exec_next_done h
  obtain ⟨hmem, hnoDst, -⟩ := destinationWrites s t i h
  have hframe := exec_frame h
  obtain ⟨hout, hkind⟩ := exec_error_cases h h0
  refine ⟨hout, hbusy, hdone, bne_iff_ne.2 h0, hop, hsnap, hframe.config, hframe.surroundings, fun hstart => ?_,
    fun hnot => ?_⟩
  · rcases hkind with ⟨-, code, rfl⟩ | ⟨hnot, -⟩
    · exact ⟨rfl, ⟨rfl, rfl⟩, ⟨rfl, rfl⟩, rfl, fun _ => rfl⟩
    · exact absurd hstart hnot
  · rcases hkind with ⟨hstart, -⟩ | ⟨-, hcleared⟩
    · exact absurd hstart hnot
    · exact ⟨hcleared.freq, hframe.freq, hcleared.tree, hframe.tree, hcleared.codeTable, hframe.codeTable, hcleared.pad,
        hframe.pad, hmem, hnoDst⟩

/-! ### The interrupt line (60_exceptions R227) -/

theorem State.irq_iff (s : State) : s.irq = true ↔ s.ie = true ∧ s.done = true := Bool.and_eq_true_iff

theorem State.irq_eq_false_of_done {s : State} (h : s.done = false) : s.irq = false := by
  rw [State.irq, h, Bool.and_false]

theorem State.irq_eq_false_of_ie {s : State} (h : s.ie = false) : s.irq = false := by
  rw [State.irq, h, Bool.false_and]

/-- A completion, success or error, raises the line where it is enabled. -/
theorem exec_irq {i : Instr} {s t : State} (h : exec i s = .next t) : t.irq = s.ie := by
  obtain ⟨hie, -⟩ := (exec_frame h).config
  obtain ⟨-, hdone, -⟩ := exec_next_done h
  rw [State.irq, hie, hdone, Bool.and_true]

theorem State.coreReset_ie (s : State) : s.coreReset.ie = false := by
  rw [s.coreReset_eq]
  rfl

/-- Settles O14: a completion sets `DONE` and keeps `IE`; each of the other moves clears one of the two. -/
theorem interruptLine : Obligations.InterruptLine := by
  intro s t
  refine ⟨s.irq_iff, fun i h => exec_irq h, fun hb h => State.irq_eq_false_of_done ?clearDone,
    fun v i hb hv h => State.irq_eq_false_of_done ?accept, fun h => State.irq_eq_false_of_ie ?disable,
    fun h => State.irq_eq_false_of_ie ?reset⟩
  case clearDone =>
    obtain ⟨-, -, -, -, -, -, -, -, hclear, -⟩ := csrWrites s .status 0x2#32
    rw [hclear rfl hb] at h
    cases h
    rfl
  case accept =>
    obtain ⟨-, -, haccept, -⟩ := cmdWriteAcceptance s v
    rw [haccept i hb hv] at h
    cases h
    rfl
  case disable =>
    obtain ⟨-, -, -, -, -, hie, -⟩ := csrWrites s .ctrl 0x0#32
    rw [hie rfl] at h
    cases h
    rfl
  case reset =>
    cases h
    exact s.coreReset_ie

end Sys2Proof.Machine

/-! ## Turns, reset and hazards (70_reset_and_hazards R261, R265, R270, R272) -/

namespace Sys2Proof.Machine

/-! ### The host's turn (70_reset R272; log entry 3) -/

theorem hostStep_of_program {s : State} {op : HostOp} {prog : HostProgram} (h : s.program = op :: prog) :
    hostStep s = hostMove op { s with program := prog } := by
  simp [hostStep, h]

theorem hostStep_of_no_program {s : State} (h : s.program = []) : hostStep s = .next s := by
  simp [hostStep, h]

theorem step_of_host_turn {s : State} {rest : List Agent} (hag : s.agenda = .host :: rest) :
    step s = hostStep { s with agenda := rest } := by
  simp [step, hag]

theorem step_of_idle {s : State} (hag : s.agenda = []) (hb : s.busy = false) : step s = hostStep s := by
  simp [step, hag, hb]

/-- Settles O4: the turn is the host's by the agenda, or because the machine is idle with the agenda used up. -/
theorem stepPerformsTheHostsMove : Obligations.StepPerformsTheHostsMove := by
  refine ⟨fun s op prog hprog => ⟨fun rest hag => ?turn, fun hag hb => ?idle⟩, fun s hprog hb hag => ?stays⟩
  case turn => exact (step_of_host_turn hag).trans (hostStep_of_program hprog)
  case idle => exact (step_of_idle hag hb).trans (hostStep_of_program hprog)
  case stays => exact (step_of_idle hag hb).trans (hostStep_of_no_program hprog)

/-! ### A command in flight ends (70_reset R270) -/

theorem State.coreReset_busy (s : State) : s.coreReset.busy = false := by
  rw [s.coreReset_eq]
  rfl

/-- A host move ends the command in flight, which only reset does, or keeps it. -/
theorem hostMove_of_inFlight {op : HostOp} {s t : State} {i : Instr} (hi : s.inFlight = some i)
    (h : hostMove op s = .next t) : t.busy = false ∨ (t.inFlight = some i ∧ t.agenda = s.agenda) := by
  rcases hostMove_next_cases h with ⟨prog, log, n, rfl⟩ | ⟨c, v, -, rfl⟩ | ⟨a, b, -, -, rfl⟩ | ⟨-, rfl⟩
  · exact .inr ⟨hi, rfl⟩
  · rcases s.csrWrite_kinds c v with ⟨-, he⟩ | ⟨-, he⟩ | hset
    · rw [he]; exact .inl s.coreReset_busy
    · rw [he, State.accept_of_busy (State.inFlight_eq_some hi).1]; exact .inr ⟨hi, rfl⟩
    · rw [hset.eq]; exact .inr ⟨hi, rfl⟩
  · exact .inr ⟨hi, rfl⟩
  · exact .inl s.coreReset_busy

/-- A step ends the command in flight or uses up a turn of the agenda. -/
theorem step_of_inFlight {s t : State} {i : Instr} (hi : s.inFlight = some i) (h : step s = .next t) :
    t.busy = false ∨ (t.inFlight = some i ∧ t.agenda.length < s.agenda.length) := by
  rcases step_cases s with ⟨rest, hag, he⟩ | ⟨rest, hag, -⟩ | ⟨hag, -, -⟩ | ⟨-, hidle, -⟩
  · have hlen : rest.length < s.agenda.length := by simp [hag]
    rw [he] at h
    rcases hostStep_cases { s with agenda := rest } with ⟨-, hs⟩ | ⟨op, prog, -, hs⟩ <;> rw [hs] at h
    · cases h
      exact .inr ⟨hi, hlen⟩
    · have hkept := hostMove_of_inFlight (s := { s with agenda := rest, program := prog }) hi h
      exact hkept.imp_right fun ⟨ht, hagenda⟩ => ⟨ht, hagenda ▸ hlen⟩
  · rw [step_of_core_turn hag hi] at h
    exact .inl (exec_next_done h).1
  · rw [step_of_no_agenda hag hi] at h
    exact .inl (exec_next_done h).1
  · rw [(State.inFlight_eq_some hi).1] at hidle
    cases hidle

theorem run_one (s : State) : Host.Core.run Sys2Proof.core 1 s = step s := by
  have hcore : Sys2Proof.core.step s = step s := rfl
  simp only [Host.Core.run, hcore]
  cases step s <;> rfl

theorem run_succ_of_step {s t : State} (h : step s = .next t) (n : Nat) :
    Host.Core.run Sys2Proof.core (n + 1) s = Host.Core.run Sys2Proof.core n t := by
  have hcore : Sys2Proof.core.step s = .next t := h
  simp only [Host.Core.run, hcore]

/-- Settles O5, by induction on the length of the agenda: a step that does not end the command shortens it. -/
theorem commandInFlightEnds : Obligations.CommandInFlightEnds := by
  intro s i hi
  induction hlen : s.agenda.length using Nat.strong_induction_on generalizing s with
  | _ k ih =>
    by_cases hend : ∀ t, step s = .next t → t.busy = false
    · exact ⟨1, by omega, fun t ht => hend t ((run_one s).symm.trans ht)⟩
    · push Not at hend
      obtain ⟨t, hst, hbusy⟩ := hend
      obtain ⟨ht, hshorter⟩ := (step_of_inFlight hi hst).resolve_left hbusy
      obtain ⟨n, hn, hidle⟩ := ih t.agenda.length (hlen ▸ hshorter) t ht rfl
      exact ⟨n + 1, by omega, fun u hu => hidle u ((run_succ_of_step hst n).symm.trans hu)⟩

/-! ### Reset (70_reset R261) -/

theorem State.coreReset_irq (s : State) : s.coreReset.irq = false := State.irq_eq_false_of_ie s.coreReset_ie

theorem State.coreReset_sameMemoryButDestination (s : State) : SameMemoryButDestination s s.coreReset :=
  fun _ ha => s.coreReset_read_outside (by rwa [← Bool.not_eq_true, Region.contains_iff])

/-- The abort of a command that writes no destination leaves memory alone. -/
theorem State.coreReset_sameMemory {s : State}
    (h : ∀ i, s.inFlight = some i → (cmdInfo i).writesDst = false) : SameMemory s s.coreReset := by
  rcases s.coreReset_cases with ⟨-, he⟩ | ⟨i, hi, he⟩ <;> intro a
  · rw [he]; rfl
  · rw [he, freeDst_of_not_writesDst (h i hi)]; rfl

/-- Settles O15: both moves answer `coreReset`. -/
theorem resetEffect : Obligations.ResetEffect := by
  intro s v hv
  obtain ⟨-, -, -, -, -, -, hsoft, -⟩ := csrWrites s .ctrl v
  exact ⟨s.coreReset, rfl, hsoft hv, s.coreReset_eq, s.coreReset_sameMemoryButDestination, State.coreReset_sameMemory,
    s.coreReset_irq, rfl⟩

/-! ### Host accesses to memory (70_reset R265, R272) -/

section
variable {s : State} {i : Instr} {a : Nat}

theorem State.inActiveSrc_iff (h : s.inFlight = some i) :
    s.inActiveSrc a = true ↔
      (cmdInfo i).readsSrc = true ∧ s.srcAddr.toNat ≤ a ∧ a < s.srcAddr.toNat + s.srcLen.toNat := by
  simp [State.inActiveSrc, h, Region.contains_iff, State.srcRegion]

theorem State.inActiveDst_iff (h : s.inFlight = some i) :
    s.inActiveDst a = true ↔
      (cmdInfo i).writesDst = true ∧ s.dstAddr.toNat ≤ a ∧ a < s.dstAddr.toNat + s.dstCap.toNat := by
  simp [State.inActiveDst, h, Region.contains_iff, State.dstRegion]

theorem State.not_inActiveSrc_of_idle (h : s.inFlight = none) : ¬s.inActiveSrc a = true := by
  simp [State.inActiveSrc, h]

theorem State.not_inActiveDst_of_idle (h : s.inFlight = none) : ¬s.inActiveDst a = true := by
  simp [State.inActiveDst, h]

end

section
variable {s : State} {a : Word}

theorem hostMove_memRead_of_window (hw : s.csrWindow.contains a.toNat = true) :
    hostMove (.memRead a) s = .refused .csrAccess := if_pos hw

theorem hostMove_memRead_of_active (hw : s.csrWindow.contains a.toNat = false) (h : s.inActiveDst a.toNat = true) :
    hostMove (.memRead a) s = .fault (.hazard a) := by
  simp [hostMove, hostMemRead, hw, h]

/-- A read outside the window and the active destination answers the byte; the source region is free to read. -/
theorem hostMove_memRead_of_free (hw : s.csrWindow.contains a.toNat = false) (h : ¬s.inActiveDst a.toNat = true) :
    hostMove (.memRead a) s = .next { s with readLog := .mem a (Memory.read s.mem a.toNat) :: s.readLog } := by
  simp [hostMove, hostMemRead, hw, h]

theorem hostMove_memWrite_of_window (b : Byte) (hw : s.csrWindow.contains a.toNat = true) :
    hostMove (.memWrite a b) s = .refused .csrAccess := if_pos hw

theorem hostMove_memWrite_of_active (b : Byte) (hw : s.csrWindow.contains a.toNat = false)
    (h : s.inActiveSrc a.toNat = true ∨ s.inActiveDst a.toNat = true) :
    hostMove (.memWrite a b) s = .fault (.hazard a) := by
  simp [hostMove, hostMemWrite, hw, h]

/-- A write outside the window and the active regions writes that byte and nothing else. -/
theorem hostMove_memWrite_of_free (b : Byte) (hw : s.csrWindow.contains a.toNat = false)
    (hsrc : ¬s.inActiveSrc a.toNat = true) (hdst : ¬s.inActiveDst a.toNat = true) :
    ∃ t, hostMove (.memWrite a b) s = .next t ∧ t = { s with mem := t.mem } ∧
      ∀ x, Memory.read t.mem x = if x = a.toNat then b else Memory.read s.mem x :=
  ⟨{ s with mem := Memory.write s.mem a.toNat b }, by simp [hostMove, hostMemWrite, hw, hsrc, hdst], rfl,
    fun x => Memory.read_write s.mem a.toNat x b⟩

end

/-- Settles O17: inside the window, with nothing in flight, and by the active regions of the command in flight. -/
theorem hazardWhileBusy : Obligations.HazardWhileBusy := by
  refine ⟨fun s a b hw => ?window, fun s a b hi hw => ?idle, fun s i a b hi hw => ?inFlight⟩
  case window => exact ⟨hostMove_memRead_of_window hw, hostMove_memWrite_of_window b hw⟩
  case idle =>
    have hdst := State.not_inActiveDst_of_idle (a := a.toNat) hi
    exact ⟨hostMove_memRead_of_free hw hdst, hostMove_memWrite_of_free b hw (State.not_inActiveSrc_of_idle hi) hdst⟩
  case inFlight =>
    rw [← State.inActiveSrc_iff hi, ← State.inActiveDst_iff hi]
    exact ⟨hostMove_memWrite_of_active b hw, hostMove_memRead_of_active hw, hostMove_memRead_of_free hw,
      hostMove_memWrite_of_free b hw⟩

end Sys2Proof.Machine

/-! ## Memory stays in its canonical form (20_memory R70; log entry 1)

Memory changes in three ways: a host write at a 32-bit address, a success that writes its output, an abort or an error
that frees the destination region. Each writes below 2^32. -/

namespace Sys2Proof.Machine

section
variable {s s' t : State}

theorem MemoryOk.of_mem_eq (h : MemoryOk s) (ht : t.mem = s.mem) : MemoryOk t := by
  rwa [MemoryOk, ht]

/-! ### Completions -/

theorem MemoryOk.completeError (h : MemoryOk s) (c : CmdInfo) (code : ErrorCode) (pos : Nat) :
    MemoryOk (s.completeError c code pos) :=
  (s.clearWriteSet c).freeDst_wf c h

/-- The output of a command that passes its start checks ends at or below 2^32 (60_exceptions R222 `RANGE_DST`), and
one with no destination region has no output. -/
theorem BodyWrites.output_inRange {c : CmdInfo} {out : List Byte} (h : BodyWrites c s s' out)
    (h0 : startCheck c s = none) : out = [] ∨ s.dstAddr.toNat + out.length ≤ Config.addressSpace := by
  cases hdst : c.writesDst with
  | false => exact .inl (h.noOutput hdst)
  | true =>
    have hrange := (Region.inRange_iff _).1 (((startCheck_eq_none_iff c s).1 h0).2.1 hdst)
    exact .inr ((Nat.add_le_add_left h.bound _).trans hrange)

theorem MemoryOk.completeOk (hs : MemoryOk s) {c : CmdInfo} {out : List Byte} (h : BodyWrites c s s' out)
    (h0 : startCheck c s = none) : MemoryOk (s'.completeOk out) := by
  rw [MemoryOk, State.completeOk_mem, h.mem_eq, h.dstAddr_eq]
  exact Memory.writeRange_wf hs (h.output_inRange h0)

theorem exec_memoryOk {i : Instr} (hs : MemoryOk s) (h : exec i s = .next t) : MemoryOk t := by
  rcases exec_next_cases h with ⟨code, -, rfl⟩ | ⟨-, -, code, pos, -, -, rfl⟩ | ⟨h0, -, s', out, -, hw, rfl⟩
  · exact hs.of_mem_eq rfl
  · exact hs.completeError (cmdInfo i) code pos
  · exact hs.completeOk hw h0

/-! ### Host moves -/

theorem State.accept_mem (s : State) (v : Word) : (s.accept v).mem = s.mem := by
  rcases s.accept_cases v with ⟨-, he⟩ | ⟨-, -, he⟩ | ⟨-, -, he⟩ <;> rw [he]

theorem MemoryOk.csrWrite (hs : MemoryOk s) (c : Csr) (v : Word) : MemoryOk (s.csrWrite c v) := by
  rcases s.csrWrite_kinds c v with ⟨-, he⟩ | ⟨-, he⟩ | hset
  · rw [he]; exact s.coreReset_wf hs
  · rw [he]; exact hs.of_mem_eq (s.accept_mem v)
  · exact hs.of_mem_eq hset.mem

theorem hostMove_memoryOk {op : HostOp} (hs : MemoryOk s) (h : hostMove op s = .next t) : MemoryOk t := by
  rcases hostMove_next_cases h with ⟨prog, log, n, rfl⟩ | ⟨c, v, -, rfl⟩ | ⟨a, b, -, -, rfl⟩ | ⟨-, rfl⟩
  · exact hs.of_mem_eq rfl
  · exact hs.csrWrite c v
  · exact Memory.write_wf hs b a.isLt
  · exact s.coreReset_wf hs

theorem MemoryOk.turnTaken (hs : MemoryOk s) (h : TurnTaken s t) : MemoryOk t := by
  obtain ⟨ag, prog, rfl⟩ := h
  exact hs.of_mem_eq rfl

end

/-- Settles O54: the turn taken leaves memory alone, and a host move and a completion write below 2^32 only. -/
theorem stepKeepsMemoryCanonical : Obligations.StepKeepsMemoryCanonical := by
  intro s t hs h
  obtain ⟨s0, h0, rfl | ⟨op, hop⟩ | ⟨i, -, hi⟩⟩ := step_next_cases h
  · exact hs.turnTaken h0
  · exact hostMove_memoryOk (hs.turnTaken h0) hop
  · exact exec_memoryOk (hs.turnTaken h0) hi

end Sys2Proof.Machine
